-- ==== Sys2Proof/Word.lean ====
section
/-! DEFINITION. The word types of the machine (00_scope R6, R9). All values are unsigned; arithmetic on
an N-bit type is modulo 2^N, which is what `BitVec` addition and subtraction are. -/

namespace Sys2Proof

/-- An 8-bit value: a memory byte, a general register, a timer. -/
abbrev Byte := BitVec 8

/-- A 16-bit value: an opcode, I, PC, a stack entry. -/
abbrev Word := BitVec 16

/-- A 4-bit opcode field: a register number, a key number, a sprite height, a class. -/
abbrev Nibble := BitVec 4

/-- The 12-bit embedded address `nnn` (R49). -/
abbrev Addr12 := BitVec 12

end Sys2Proof
end

