-- ==== Sys2Proof/Config.lean ====
section
/-! DEFINITION. What an implementation fixes and what the spec leaves free: the named parameters of
00_scope R7 with their defaults, the standard font (92_eei_decisions D27), and the free values
(R99's random bytes and the contents R126 leaves unspecified), which are opaque. -/

namespace Sys2Proof.Config

/-- `CALL_LANDING` (D2): where 2NNN lands. -/
inductive CallLanding where
  /-- next PC = nnn -/
  | target
  /-- next PC = nnn + 2 -/
  | targetPlus2
  deriving DecidableEq, Repr

/-- `WAITKEY_VALUE` (D3): what FX0A writes once a key is pressed. -/
inductive WaitkeyValue where
  /-- the pressed key's state value, always 1 -/
  | keyState
  /-- the lowest pressed key's index -/
  | keyIndex
  deriving DecidableEq, Repr

/-- `VF_ALIAS_ORDER` (D6): which of flag and result 8XY4, 8XY6 and 8XYE write last. -/
inductive VfAliasOrder where
  | resultLast
  | flagLast
  deriving DecidableEq, Repr

/-- `DRAW_EDGE` (D12): what a sprite cell past the screen edge does. -/
inductive DrawEdge where
  | clip
  | fault
  deriving DecidableEq, Repr

/-- `KEY_INDEX_POLICY` (D15): what EX9E and EXA1 do with Vx > 15. -/
inductive KeyIndexPolicy where
  | fault
  | lowNibble
  deriving DecidableEq, Repr

/-- The standard CHIP-8 font, the default of `FONT`: glyph d at bytes 5d .. 5d+4, top row first, four
pixels wide in bits 7-4 (R35, D27). PRESUMED: the spec itself marks these bytes as general knowledge
(log entry 7). -/
def standardFont : Vector Byte 80 :=
  #v[0xF0, 0x90, 0x90, 0x90, 0xF0,
     0x20, 0x60, 0x20, 0x20, 0x70,
     0xF0, 0x10, 0xF0, 0x80, 0xF0,
     0xF0, 0x10, 0xF0, 0x10, 0xF0,
     0x90, 0x90, 0xF0, 0x10, 0x10,
     0xF0, 0x80, 0xF0, 0x10, 0xF0,
     0xF0, 0x80, 0xF0, 0x90, 0xF0,
     0xF0, 0x10, 0x20, 0x40, 0x40,
     0xF0, 0x90, 0xF0, 0x90, 0xF0,
     0xF0, 0x90, 0xF0, 0x10, 0xF0,
     0xF0, 0x90, 0xF0, 0x90, 0x90,
     0xE0, 0x90, 0xE0, 0x90, 0xE0,
     0xF0, 0x80, 0x80, 0x80, 0xF0,
     0xE0, 0x90, 0x90, 0x90, 0xE0,
     0xF0, 0x80, 0xF0, 0x80, 0xF0,
     0xF0, 0x80, 0xF0, 0x80, 0x80]

/-- The named parameters a model takes as arguments (R7). `RAND`, the last of R7's table, is the free
value `rand` below. -/
structure Params where
  callLanding : CallLanding
  waitkeyValue : WaitkeyValue
  vfAliasOrder : VfAliasOrder
  /-- `SUB_EQUAL_FLAG` (D7): true is 1, false is 0. -/
  subEqualFlag : Bool
  drawEdge : DrawEdge
  /-- `CLS_SETS_REDRAW` (D14). -/
  clsSetsRedraw : Bool
  keyIndexPolicy : KeyIndexPolicy
  /-- `SKIP_REG_STRICT` (D17). -/
  skipRegStrict : Bool
  /-- `FONT` (D27). -/
  font : Vector Byte 80
  deriving DecidableEq, Repr

/-- Every parameter at the default of R7's table (log entry 5). -/
def defaultParams : Params where
  callLanding := .target
  waitkeyValue := .keyState
  vfAliasOrder := .resultLast
  subEqualFlag := false
  drawEdge := .clip
  clsSetsRedraw := true
  keyIndexPolicy := .fault
  skipRegStrict := false
  font := standardFont

/-- FREE VALUE (R99, D23, I2; log entry 3): the byte the random oracle gives at its n-th use. -/
opaque rand : Nat → Byte

/-- FREE VALUE (R126, I8; log entry 2): V0-VF after the fault numbered by the counter. -/
opaque faultV : Nat → Fin 16 → Byte

/-- FREE VALUE (R126, I8; log entry 2): the byte at each address after that fault. -/
opaque faultMem : Nat → Nat → Byte

/-- FREE VALUE (R126, I8; log entry 2): each framebuffer row after that fault. -/
opaque faultFb : Nat → Fin 32 → BitVec 64

/-- FREE VALUE (R126, I8; log entry 2): the redraw flag after that fault. -/
opaque faultRedraw : Nat → Bool

end Sys2Proof.Config
end

