-- ==== Sys2Proof/Syntax.lean ====
section
/-! DEFINITION. The instructions, one constructor per row of spec/opcode_table.json (30_encoding R60).
`x` and `y` are register numbers, `n` a count, `nn` a byte immediate, `nnn` a 12-bit address (R49). -/

namespace Sys2Proof

inductive Instr where
  /-- 00E0 CLS -/
  | cls
  /-- 00EE RET -/
  | ret
  /-- 1NNN JP nnn -/
  | jp (nnn : Addr12)
  /-- 2NNN CALL nnn -/
  | call (nnn : Addr12)
  /-- 3XNN SE Vx, nn -/
  | seImm (x : Nibble) (nn : Byte)
  /-- 4XNN SNE Vx, nn -/
  | sneImm (x : Nibble) (nn : Byte)
  /-- 5XYn SE Vx, Vy -/
  | seReg (x y : Nibble)
  /-- 6XNN LD Vx, nn -/
  | ldImm (x : Nibble) (nn : Byte)
  /-- 7XNN ADD Vx, nn -/
  | addImm (x : Nibble) (nn : Byte)
  /-- 8XY0 LD Vx, Vy -/
  | ldReg (x y : Nibble)
  /-- 8XY1 OR Vx, Vy -/
  | orReg (x y : Nibble)
  /-- 8XY2 AND Vx, Vy -/
  | andReg (x y : Nibble)
  /-- 8XY3 XOR Vx, Vy -/
  | xorReg (x y : Nibble)
  /-- 8XY4 ADD Vx, Vy -/
  | addReg (x y : Nibble)
  /-- 8XY5 SUB Vx, Vy -/
  | sub (x y : Nibble)
  /-- 8XY6 SHR Vx; the y field is decoded but not read -/
  | shr (x y : Nibble)
  /-- 8XY7 SUBN Vx, Vy -/
  | subn (x y : Nibble)
  /-- 8XYE SHL Vx; the y field is decoded but not read -/
  | shl (x y : Nibble)
  /-- 9XYn SNE Vx, Vy -/
  | sneReg (x y : Nibble)
  /-- ANNN LD I, nnn -/
  | ldI (nnn : Addr12)
  /-- BNNN JP V0, nnn -/
  | jpV0 (nnn : Addr12)
  /-- CXNN RND Vx, nn -/
  | rnd (x : Nibble) (nn : Byte)
  /-- DXYN DRW Vx, Vy, n -/
  | drw (x y n : Nibble)
  /-- EX9E SKP Vx -/
  | skp (x : Nibble)
  /-- EXA1 SKNP Vx -/
  | sknp (x : Nibble)
  /-- FX07 LD Vx, DT -/
  | ldVxDt (x : Nibble)
  /-- FX0A LD Vx, K -/
  | ldVxK (x : Nibble)
  /-- FX15 LD DT, Vx -/
  | ldDtVx (x : Nibble)
  /-- FX18 LD ST, Vx -/
  | ldStVx (x : Nibble)
  /-- FX1E ADD I, Vx -/
  | addI (x : Nibble)
  /-- FX29 LD F, Vx -/
  | ldF (x : Nibble)
  /-- FX33 LD B, Vx -/
  | ldB (x : Nibble)
  /-- FX55 LD [I], Vx -/
  | storeRegs (x : Nibble)
  /-- FX65 LD Vx, [I] -/
  | loadRegs (x : Nibble)
  /-- 8XY8, undecoded class-8 variant -/
  | nop8XY8 (x y : Nibble)
  /-- 8XY9, undecoded class-8 variant -/
  | nop8XY9 (x y : Nibble)
  /-- 8XYA, undecoded class-8 variant -/
  | nop8XYA (x y : Nibble)
  /-- 8XYB, undecoded class-8 variant -/
  | nop8XYB (x y : Nibble)
  /-- 8XYC, undecoded class-8 variant -/
  | nop8XYC (x y : Nibble)
  /-- 8XYD, undecoded class-8 variant -/
  | nop8XYD (x y : Nibble)
  /-- 8XYF, undecoded class-8 variant -/
  | nop8XYF (x y : Nibble)
  /-- 0NNN other than 00E0 and 00EE (the SYS space) -/
  | nopSys (nnn : Addr12)
  /-- EXnn with nn other than 9E, A1 -/
  | nopE (x : Nibble) (nn : Byte)
  /-- FXnn with nn outside the nine of R56 -/
  | nopF (x : Nibble) (nn : Byte)
  /-- 5XYn, n != 0, when SKIP_REG_STRICT is true -/
  | nopStrict5 (x y n : Nibble)
  /-- 9XYn, n != 0, when SKIP_REG_STRICT is true -/
  | nopStrict9 (x y n : Nibble)
  deriving DecidableEq, Repr

end Sys2Proof
end

