-- ==== Sys2Proof/WellFormed.lean ====
section
/-! DEFINITION. Which instruction terms are instructions: a no-op term stands for a word no other row
claims (30_encoding R54-R57, R59), and the strict no-ops exist only when `SKIP_REG_STRICT` is true. -/

namespace Sys2Proof

/-- The low bytes class E decodes (R55). -/
def classELow : List Byte := [0x9E, 0xA1]

/-- The low bytes class F decodes (R56). -/
def classFLow : List Byte := [0x07, 0x0A, 0x15, 0x18, 0x1E, 0x29, 0x33, 0x55, 0x65]

/-- The 12-bit tails class 0 decodes (R54). -/
def class0Low : List Addr12 := [0x0E0, 0x0EE]

/-- Well-formed under `SKIP_REG_STRICT = strict`: every other constructor's fields are free (R50). -/
def Instr.wf (strict : Bool) : Instr → Bool
  | .cls => true
  | .ret => true
  | .jp _ => true
  | .call _ => true
  | .seImm _ _ => true
  | .sneImm _ _ => true
  | .seReg _ _ => true
  | .ldImm _ _ => true
  | .addImm _ _ => true
  | .ldReg _ _ => true
  | .orReg _ _ => true
  | .andReg _ _ => true
  | .xorReg _ _ => true
  | .addReg _ _ => true
  | .sub _ _ => true
  | .shr _ _ => true
  | .subn _ _ => true
  | .shl _ _ => true
  | .sneReg _ _ => true
  | .ldI _ => true
  | .jpV0 _ => true
  | .rnd _ _ => true
  | .drw _ _ _ => true
  | .skp _ => true
  | .sknp _ => true
  | .ldVxDt _ => true
  | .ldVxK _ => true
  | .ldDtVx _ => true
  | .ldStVx _ => true
  | .addI _ => true
  | .ldF _ => true
  | .ldB _ => true
  | .storeRegs _ => true
  | .loadRegs _ => true
  | .nop8XY8 _ _ => true
  | .nop8XY9 _ _ => true
  | .nop8XYA _ _ => true
  | .nop8XYB _ _ => true
  | .nop8XYC _ _ => true
  | .nop8XYD _ _ => true
  | .nop8XYF _ _ => true
  | .nopSys nnn => !class0Low.contains nnn
  | .nopE _ nn => !classELow.contains nn
  | .nopF _ nn => !classFLow.contains nn
  | .nopStrict5 _ _ n => strict && n != 0
  | .nopStrict9 _ _ n => strict && n != 0

end Sys2Proof
end

