-- ==== Sys2Proof/Decode.lean ====
section
/-! DEFINITION. Decoding (30_encoding R52-R58), total on opcodes; decoding of bytes, which refuses only
too few bytes, by name; and the encoder, from the same formats (R50). -/

namespace Sys2Proof

/-- Field `c`, bits 15:12 (R49). -/
def fieldC (w : Word) : Nibble := w.extractLsb' 12 4
/-- Field `x`, bits 11:8. -/
def fieldX (w : Word) : Nibble := w.extractLsb' 8 4
/-- Field `y`, bits 7:4. -/
def fieldY (w : Word) : Nibble := w.extractLsb' 4 4
/-- Field `n`, bits 3:0. -/
def fieldN (w : Word) : Nibble := w.extractLsb' 0 4
/-- Field `nn`, bits 7:0. -/
def fieldNN (w : Word) : Byte := w.extractLsb' 0 8
/-- Field `nnn`, bits 11:0. -/
def fieldNNN (w : Word) : Addr12 := w.extractLsb' 0 12

/-- Class 0: 0x00E0 and 0x00EE on all bits, the rest a no-op (R54). -/
def decode0 (w : Word) : Instr :=
  if fieldNNN w = 0x0E0 then .cls
  else if fieldNNN w = 0x0EE then .ret
  else .nopSys (fieldNNN w)

/-- Class 5: `SE Vx, Vy`, or the strict no-op (R57). -/
def decode5 (strict : Bool) (w : Word) : Instr :=
  if strict && fieldN w != 0 then .nopStrict5 (fieldX w) (fieldY w) (fieldN w)
  else .seReg (fieldX w) (fieldY w)

/-- Class 9: `SNE Vx, Vy`, or the strict no-op (R57). -/
def decode9 (strict : Bool) (w : Word) : Instr :=
  if strict && fieldN w != 0 then .nopStrict9 (fieldX w) (fieldY w) (fieldN w)
  else .sneReg (fieldX w) (fieldY w)

/-- Class 8, second level on the lowest nibble (R53). -/
def decode8 (w : Word) : Instr :=
  let x := fieldX w
  let y := fieldY w
  if fieldN w = 0x0 then .ldReg x y
  else if fieldN w = 0x1 then .orReg x y
  else if fieldN w = 0x2 then .andReg x y
  else if fieldN w = 0x3 then .xorReg x y
  else if fieldN w = 0x4 then .addReg x y
  else if fieldN w = 0x5 then .sub x y
  else if fieldN w = 0x6 then .shr x y
  else if fieldN w = 0x7 then .subn x y
  else if fieldN w = 0x8 then .nop8XY8 x y
  else if fieldN w = 0x9 then .nop8XY9 x y
  else if fieldN w = 0xA then .nop8XYA x y
  else if fieldN w = 0xB then .nop8XYB x y
  else if fieldN w = 0xC then .nop8XYC x y
  else if fieldN w = 0xD then .nop8XYD x y
  else if fieldN w = 0xE then .shl x y
  else .nop8XYF x y

/-- Class E, on the whole low byte (R55). -/
def decodeE (w : Word) : Instr :=
  let x := fieldX w
  if fieldNN w = 0x9E then .skp x
  else if fieldNN w = 0xA1 then .sknp x
  else .nopE x (fieldNN w)

/-- Class F, on the whole low byte (R56). -/
def decodeF (w : Word) : Instr :=
  let x := fieldX w
  if fieldNN w = 0x07 then .ldVxDt x
  else if fieldNN w = 0x0A then .ldVxK x
  else if fieldNN w = 0x15 then .ldDtVx x
  else if fieldNN w = 0x18 then .ldStVx x
  else if fieldNN w = 0x1E then .addI x
  else if fieldNN w = 0x29 then .ldF x
  else if fieldNN w = 0x33 then .ldB x
  else if fieldNN w = 0x55 then .storeRegs x
  else if fieldNN w = 0x65 then .loadRegs x
  else .nopF x (fieldNN w)

/-- The decoder: a function of the opcode alone, once `SKIP_REG_STRICT` is chosen (R52, R58, R65). -/
def decode (strict : Bool) (w : Word) : Instr :=
  if fieldC w = 0x0 then decode0 w
  else if fieldC w = 0x1 then .jp (fieldNNN w)
  else if fieldC w = 0x2 then .call (fieldNNN w)
  else if fieldC w = 0x3 then .seImm (fieldX w) (fieldNN w)
  else if fieldC w = 0x4 then .sneImm (fieldX w) (fieldNN w)
  else if fieldC w = 0x5 then decode5 strict w
  else if fieldC w = 0x6 then .ldImm (fieldX w) (fieldNN w)
  else if fieldC w = 0x7 then .addImm (fieldX w) (fieldNN w)
  else if fieldC w = 0x8 then decode8 w
  else if fieldC w = 0x9 then decode9 strict w
  else if fieldC w = 0xA then .ldI (fieldNNN w)
  else if fieldC w = 0xB then .jpV0 (fieldNNN w)
  else if fieldC w = 0xC then .rnd (fieldX w) (fieldNN w)
  else if fieldC w = 0xD then .drw (fieldX w) (fieldY w) (fieldN w)
  else if fieldC w = 0xE then decodeE w
  else decodeF w

/-- The opcode of two bytes: the one at the lower address is the high byte (R37). -/
def wordOfBytes (hi lo : Byte) : Word := hi.setWidth 16 <<< 8 ||| lo.setWidth 16

/-- The byte of an opcode stored at the lower address (R37). -/
def highByte (w : Word) : Byte := w.extractLsb' 8 8

/-- The byte of an opcode stored at the higher address (R37). -/
def lowByte (w : Word) : Byte := w.extractLsb' 0 8

/-- Why a run of bytes is no instruction. No opcode is refused (R58), so the only reason is that there
are fewer than two bytes (R48). -/
inductive DecodeReject where
  | truncated
  deriving DecidableEq, Repr

/-- Reads one instruction from the front of a run of bytes and gives the rest. -/
def decodeBytes (strict : Bool) : List Byte → Except DecodeReject (Instr × List Byte)
  | hi :: lo :: rest => .ok (decode strict (wordOfBytes hi lo), rest)
  | [_] => .error .truncated
  | [] => .error .truncated

/-- The instruction in an opcode-table word `w` of `nbits` bits, laid out in memory order and read under
the default `SKIP_REG_STRICT` (log entry 16). -/
def decodeTableWord (nbits w : Nat) : Option Instr :=
  let op : Word := BitVec.ofNat 16 (w % 2 ^ nbits)
  match decodeBytes Config.defaultParams.skipRegStrict [highByte op, lowByte op] with
  | .ok (i, _) => some i
  | .error _ => none

/-- Format A: class and 12-bit address (R50). -/
def formatA (c : Nibble) (nnn : Addr12) : Word := c.setWidth 16 <<< 12 ||| nnn.setWidth 16
/-- Formats XNN and X: class, register, byte (R50). -/
def formatXNN (c x : Nibble) (nn : Byte) : Word :=
  c.setWidth 16 <<< 12 ||| x.setWidth 16 <<< 8 ||| nn.setWidth 16
/-- Formats XY and XYN: class, two registers, nibble (R50). -/
def formatXYN (c x y n : Nibble) : Word :=
  c.setWidth 16 <<< 12 ||| x.setWidth 16 <<< 8 ||| y.setWidth 16 <<< 4 ||| n.setWidth 16

/-- The word of an instruction (R50, R60). The low nibble that 5XYn and 9XYn ignore is written 0
(log entry 15). -/
def encode : Instr → Word
  | .cls => formatA 0x0 0x0E0
  | .ret => formatA 0x0 0x0EE
  | .jp nnn => formatA 0x1 nnn
  | .call nnn => formatA 0x2 nnn
  | .seImm x nn => formatXNN 0x3 x nn
  | .sneImm x nn => formatXNN 0x4 x nn
  | .seReg x y => formatXYN 0x5 x y 0x0
  | .ldImm x nn => formatXNN 0x6 x nn
  | .addImm x nn => formatXNN 0x7 x nn
  | .ldReg x y => formatXYN 0x8 x y 0x0
  | .orReg x y => formatXYN 0x8 x y 0x1
  | .andReg x y => formatXYN 0x8 x y 0x2
  | .xorReg x y => formatXYN 0x8 x y 0x3
  | .addReg x y => formatXYN 0x8 x y 0x4
  | .sub x y => formatXYN 0x8 x y 0x5
  | .shr x y => formatXYN 0x8 x y 0x6
  | .subn x y => formatXYN 0x8 x y 0x7
  | .shl x y => formatXYN 0x8 x y 0xE
  | .sneReg x y => formatXYN 0x9 x y 0x0
  | .ldI nnn => formatA 0xA nnn
  | .jpV0 nnn => formatA 0xB nnn
  | .rnd x nn => formatXNN 0xC x nn
  | .drw x y n => formatXYN 0xD x y n
  | .skp x => formatXNN 0xE x 0x9E
  | .sknp x => formatXNN 0xE x 0xA1
  | .ldVxDt x => formatXNN 0xF x 0x07
  | .ldVxK x => formatXNN 0xF x 0x0A
  | .ldDtVx x => formatXNN 0xF x 0x15
  | .ldStVx x => formatXNN 0xF x 0x18
  | .addI x => formatXNN 0xF x 0x1E
  | .ldF x => formatXNN 0xF x 0x29
  | .ldB x => formatXNN 0xF x 0x33
  | .storeRegs x => formatXNN 0xF x 0x55
  | .loadRegs x => formatXNN 0xF x 0x65
  | .nop8XY8 x y => formatXYN 0x8 x y 0x8
  | .nop8XY9 x y => formatXYN 0x8 x y 0x9
  | .nop8XYA x y => formatXYN 0x8 x y 0xA
  | .nop8XYB x y => formatXYN 0x8 x y 0xB
  | .nop8XYC x y => formatXYN 0x8 x y 0xC
  | .nop8XYD x y => formatXYN 0x8 x y 0xD
  | .nop8XYF x y => formatXYN 0x8 x y 0xF
  | .nopSys nnn => formatA 0x0 nnn
  | .nopE x nn => formatXNN 0xE x nn
  | .nopF x nn => formatXNN 0xF x nn
  | .nopStrict5 x y n => formatXYN 0x5 x y n
  | .nopStrict9 x y n => formatXYN 0x9 x y n

/-- The two bytes of an instruction in memory order. -/
def encodeBytes (i : Instr) : List Byte := [highByte (encode i), lowByte (encode i)]

end Sys2Proof
end

