-- ==== Sys2Proof/Machine/Memory.lean ====
section
/-! DEFINITION. Memory as plain data (20_memory R33, R34): the cells that differ from the initialised
memory, by rising address. -/

namespace Sys2Proof.Machine

/-- A memory: every listed cell differs from `Memory.background`, addresses strictly rising. -/
abbrev Memory := List Host.Cell

/-- How many byte addresses there are: 0x000 to 0xFFF (R33). -/
abbrev memorySize : Nat := 4096

/-- What an unlisted address reads as: memory as initialisation leaves it, the default font at
0x000-0x04F and 0x00 above (R31, R34, R139; log entry 7). -/
def Memory.background (a : Nat) : Byte :=
  if h : a < 80 then Config.standardFont[a] else 0

/-- The byte at an address; a read returns the last value written there (R39). -/
def Memory.read : Memory → Nat → Byte
  | [], a => Memory.background a
  | (c, d) :: rest, a => if a = c then d else Memory.read rest a

/-- Writes the byte at an address. Writing what an unlisted address reads as removes the cell, so
equal memories are equal lists. -/
def Memory.write : Memory → Nat → Byte → Memory
  | [], a, b => if b = Memory.background a then [] else [(a, b)]
  | (c, d) :: rest, a, b =>
    if a < c then
      if b = Memory.background a then (c, d) :: rest else (a, b) :: (c, d) :: rest
    else if a = c then
      if b = Memory.background a then rest else (a, b) :: rest
    else (c, d) :: Memory.write rest a b

/-- Writes bytes at ascending addresses. -/
def Memory.writeList : Memory → Nat → List Byte → Memory
  | m, _, [] => m
  | m, a, b :: bs => Memory.writeList (Memory.write m a b) (a + 1) bs

/-- The cells of `k` addresses from `a` on whose bytes are given by `f`. -/
def Memory.ofBytesFrom (f : Nat → Byte) : Nat → Nat → Memory
  | 0, _ => []
  | k + 1, a =>
    if f a = Memory.background a then Memory.ofBytesFrom f k (a + 1)
    else (a, f a) :: Memory.ofBytesFrom f k (a + 1)

/-- The memory whose byte at each address of 0x000-0xFFF is given by `f`. -/
def Memory.ofBytes (f : Nat → Byte) : Memory := Memory.ofBytesFrom f memorySize 0

/-- The canonical form from an address on: rising addresses below 4096, none below `lo`, and no cell
equal to what its address reads as when unlisted. -/
def Memory.wfFrom : Nat → Memory → Bool
  | _, [] => true
  | lo, (a, b) :: rest =>
    decide (lo ≤ a) && decide (a < memorySize) && decide (b ≠ Memory.background a)
      && Memory.wfFrom (a + 1) rest

/-- The canonical form. -/
def Memory.wf (m : Memory) : Bool := Memory.wfFrom 0 m

end Sys2Proof.Machine
end

