-- ==== Sys2Proof/Machine/State.lean ====
section
/-! DEFINITION. The machine's state (10_state R13), its fault kinds (60_exceptions R119), and the state
right after reset (R31, R139). -/

namespace Sys2Proof.Machine

/-- The fatal fault kinds (R119). Each is recorded in `State.fault` by the cycle that raises it, which
is a next state; a step answers `fault` only on a machine that already holds one (R64; log entry 1). -/
inductive Fault where
  /-- Code 1. Raised by CALL with SP = 16 (R120). Safe: the machine stops where the spec says so. -/
  | stackOverflow
  /-- Code 2. Raised by RET with SP = 0 (R121). Safe: the machine stops where the spec says so. -/
  | stackUnderflow
  /-- Code 3. Raised by fetch, DXYN, FX33, FX55 and FX65 at the first address `a` above 0xFFF (R122).
  Safe: the machine stops where the spec says so. -/
  | memoryOutOfBounds (a : Nat)
  /-- Code 4. Raised by EX9E and EXA1 with Vx = `v` above 15 when KEY_INDEX_POLICY is fault (R123).
  Safe: the machine stops where the spec says so. -/
  | keyIndexOutOfRange (v : Byte)
  /-- Code 5. Raised by DXYN crossing the screen edge when DRAW_EDGE is fault (R124). Safe: the machine
  stops where the spec says so. -/
  | drawOutOfBounds
  deriving DecidableEq, Repr

/-- The numeric code of a fault kind (R119, D30). -/
def Fault.code : Fault → Nat
  | .stackOverflow => 1
  | .stackUnderflow => 2
  | .memoryOutOfBounds _ => 3
  | .keyIndexOutOfRange _ => 4
  | .drawOutOfBounds => 5

/-- Reasons a step gives no meaning. -/
inductive Refusal where
  /-- Raised by `exec` for an instruction without a meaning; no instruction is left so. Safe. -/
  | notModelled (mnemonic : String)
  deriving DecidableEq, Repr

/-- What a cycle returns to the caller (R69). -/
inductive CycleResult where
  /-- The cycle completed; the tone signal of R68. -/
  | ok (tone : Bool)
  /-- The cycle ended in this fault. -/
  | err (f : Fault)
  deriving DecidableEq, Repr

/-- The framebuffer (R23): 32 rows of 64 one-bit cells; column x of a row is its bit x (log entry 13). -/
abbrev Frame := Vector (BitVec 64) 32

/-- The state record of R13, then three fields of the model's own: the last cycle's result, the
parameters of R7 and the counter of free values (log entries 4, 5, 6). -/
structure State where
  /-- MEM -/
  mem : Memory
  /-- V0-VF (R14) -/
  v : Vector Byte 16
  /-- I (R17) -/
  i : Word
  /-- PC (R18) -/
  pc : Word
  /-- STACK, the latest return address first; SP is its length (R19; log entry 12) -/
  stack : List Word
  /-- DT (R20) -/
  dt : Byte
  /-- ST (R21) -/
  st : Byte
  /-- KEY (R22); true means pressed -/
  key : Vector Bool 16
  /-- FB (R23) -/
  fb : Frame
  /-- REDRAW (R24) -/
  redraw : Bool
  /-- FAULT (R26) -/
  fault : Option Fault
  /-- The model's own: what the last cycle returned (R25, R69), none before any cycle. -/
  out : Option CycleResult
  /-- The model's own: the parameters of R7. -/
  params : Config.Params
  /-- The model's own: which free value comes next (R99, R126). -/
  freeCount : Nat
  deriving DecidableEq, Repr

/-- The machine right after `init()` with the default parameters (R31, R139, R140). Memory lists nothing:
an unlisted address reads as initialisation leaves it. -/
def State.reset : State where
  mem := []
  v := Vector.replicate 16 0
  i := 0x0000
  pc := 0x0200
  stack := []
  dt := 0
  st := 0
  key := Vector.replicate 16 false
  fb := Vector.replicate 32 0
  redraw := false
  fault := none
  out := none
  params := Config.defaultParams
  freeCount := 0

end Sys2Proof.Machine
end

