-- ==== Sys2Proof/Machine/Ops.lean ====
section
/-! DEFINITION. The named operations over registers, memory and framebuffer that every meaning is
written with (00_scope R10), raising a fault (60_exceptions R125, R126) and leaving it (R129, R139),
and the parts of a cycle that stand around an instruction (40_cycle R63, R66, R68). -/

namespace Sys2Proof.Machine

/-- What a meaning answers. -/
abbrev Result := Host.Outcome State Fault Refusal

/-! Field updates. -/

def State.setMem (s : State) (m : Memory) : State := { s with mem := m }
def State.setV (s : State) (v : Vector Byte 16) : State := { s with v := v }
def State.setI (s : State) (w : Word) : State := { s with i := w }
def State.setPc (s : State) (w : Word) : State := { s with pc := w }
def State.setStack (s : State) (l : List Word) : State := { s with stack := l }
def State.setDt (s : State) (b : Byte) : State := { s with dt := b }
def State.setSt (s : State) (b : Byte) : State := { s with st := b }
def State.setKeys (s : State) (k : Vector Bool 16) : State := { s with key := k }
def State.setFb (s : State) (f : Frame) : State := { s with fb := f }
def State.setRedraw (s : State) (b : Bool) : State := { s with redraw := b }
def State.setFault (s : State) (f : Option Fault) : State := { s with fault := f }
def State.setOut (s : State) (r : Option CycleResult) : State := { s with out := r }
def State.setFreeCount (s : State) (n : Nat) : State := { s with freeCount := n }

/-! Registers (R14). -/

/-- `V[x]`. -/
def State.readV (s : State) (x : Nibble) : Byte := s.v[x.toNat]'x.isLt

/-- `V[x] <- b`. -/
def State.writeV (s : State) (x : Nibble) (b : Byte) : State := s.setV (s.v.set x.toNat b x.isLt)

/-- The number of VF, the flag register (R15). -/
def vf : Nibble := 0xF

/-- SP, the depth of the call stack (R19). -/
def State.sp (s : State) : Nat := s.stack.length

/-- The capacity of the call stack (R6, R19). -/
abbrev stackCapacity : Nat := 16

/-- Is key `k` pressed (R22). -/
def State.pressed (s : State) (k : Nibble) : Bool := s.key[k.toNat]'k.isLt

/-! Memory, one byte at an unbounded address (R38, R40). -/

/-- `MemRead(a, 1)`. -/
def State.memRead (s : State) (a : Nat) : Except Fault Byte :=
  if 0xFFF < a then .error (.memoryOutOfBounds a) else .ok (s.mem.read a)

/-- `MemWrite(a, 1, b)`. -/
def State.memWrite (s : State) (a : Nat) (b : Byte) : Except Fault State :=
  if 0xFFF < a then .error (.memoryOutOfBounds a) else .ok (s.setMem (s.mem.write a b))

/-- `MemWrite` of each byte in turn at ascending addresses; the first address above 0xFFF faults. -/
def State.memWriteAll (s : State) (a : Nat) : List Byte → Except Fault State
  | [] => .ok s
  | b :: bs =>
    match s.memWrite a b with
    | .error f => .error f
    | .ok t => t.memWriteAll (a + 1) bs

/-- `MemRead` of `k` bytes at ascending addresses; the first address above 0xFFF faults. -/
def State.memReadAll (s : State) (a : Nat) : Nat → Except Fault (List Byte)
  | 0 => .ok []
  | k + 1 =>
    match s.memRead a with
    | .error f => .error f
    | .ok b =>
      match s.memReadAll (a + 1) k with
      | .error f => .error f
      | .ok bs => .ok (b :: bs)

/-- The opcode at PC: high byte at the lower address, PC + 1 not wrapped (R37). -/
def State.fetch (s : State) : Except Fault Word :=
  match s.memRead s.pc.toNat with
  | .error f => .error f
  | .ok hi =>
    match s.memRead (s.pc.toNat + 1) with
    | .error f => .error f
    | .ok lo => .ok (wordOfBytes hi lo)

/-! Framebuffer cells (R23). -/

/-- `FB[x, y]`; a cell off the screen is dark. -/
def Frame.pixel (f : Frame) (x y : Nat) : Bool :=
  if h : y < 32 then f[y].getLsbD x else false

/-- `FB[x, y] <- FB[x, y] ^ 1`. -/
def Frame.toggle (f : Frame) (x y : Nat) : Frame :=
  if h : y < 32 then f.set y (f[y] ^^^ BitVec.twoPow 64 x) else f

/-- Every cell 0. -/
def Frame.blank : Frame := Vector.replicate 32 0

/-! The end of an instruction. -/

/-- The uniform PC step at the end of execute: `PC <- pc_pre +_16 2` (R66). -/
def finish (pcPre : Word) (s : State) : Result := .next (s.setPc (pcPre + 2))

/-- `pc_pre` of a skip: `PC +_16 2` when the condition holds, else PC (R89). -/
def State.skipPre (s : State) (cond : Bool) : Word := if cond then s.pc + 2 else s.pc

/-- `pc_pre` that makes the next PC the target: `t -_16 2` (R89). -/
def jumpPre (t : Word) : Word := t - 2

/-- The state a raised fault leaves: FAULT and the cycle's result hold the kind; V, MEM, FB and REDRAW
are unspecified, so free values; everything else is as before the cycle (R125, R126; log entry 2). -/
def State.takeFault (s : State) (f : Fault) : State :=
  { s with
    v := Vector.ofFn (Config.faultV s.freeCount)
    mem := Memory.ofBytes (Config.faultMem s.freeCount)
    fb := Vector.ofFn (Config.faultFb s.freeCount)
    redraw := Config.faultRedraw s.freeCount
    fault := some f
    out := some (.err f)
    freeCount := s.freeCount + 1 }

/-- `raise F(info)`: the instruction ends here, with no PC step (R125). -/
def raise (f : Fault) (s : State) : Result := .next (s.takeFault f)

/-- Ends an instruction that leaves `pc_pre` at PC: with its effect, or in the fault it met. -/
def State.finishOr (s : State) (r : Except Fault State) : Result :=
  match r with
  | .error f => raise f s
  | .ok t => finish s.pc t

/-- `init()`: every field reset and the font seeded, the only way out of a fault (R129, R139). The
parameters are the machine's; the free values are not reset (R99). -/
def State.init (s : State) : State :=
  { State.reset with
    mem := Memory.writeList [] 0 s.params.font.toList
    params := s.params
    freeCount := s.freeCount }

/-- The timer tick at the end of a cycle that does not fault; the tone is its result (R68). -/
def State.timerTick (s : State) : State :=
  { s with
    dt := if s.dt = 0 then 0 else s.dt - 1
    st := if s.st = 0 then 0 else s.st - 1
    out := some (.ok (s.st == 1)) }

/-- The end of a cycle: no tick when the instruction faulted (R125), else the tick. -/
def State.endCycle (s : State) : State :=
  match s.fault with
  | some _ => s
  | none => s.timerTick

/-- The next free byte of the random oracle (R99), and the oracle moved on. -/
def State.draw (s : State) : Byte × State := (Config.rand s.freeCount, s.setFreeCount (s.freeCount + 1))

end Sys2Proof.Machine
end

