-- ==== Sys2Proof/Machine/Flags.lean ====
section
/-! DEFINITION. The values the flag-writing instructions leave in VF (10_state R16) and the order of the
flag and result writes (41_arithmetic R75). -/

namespace Sys2Proof.Machine

/-- A flag as a byte: 0x01 or 0x00. -/
def flagByte (b : Bool) : Byte := if b then 0x01 else 0x00

/-- 8XY4: 1 if the unbounded sum exceeds 255 (R82). -/
def carryFlag (a b : Byte) : Byte := flagByte (decide (255 < a.toNat + b.toNat))

/-- No borrow of `a - b`: 1 if a > b, `SUB_EQUAL_FLAG` if equal, else 0 (R83; with the operands swapped
R85). -/
def noBorrowFlag (equalFlag : Bool) (a b : Byte) : Byte :=
  if b.toNat < a.toNat then flagByte true
  else if a = b then flagByte equalFlag
  else flagByte false

/-- 8XY6: the bit shifted out (R84). -/
def shrFlag (a : Byte) : Byte := a &&& 0x01

/-- 8XYE: the raw masked high bit, 0x00 or 0x80 (R86). -/
def shlFlag (a : Byte) : Byte := a &&& 0x80

/-- Flag first, then result: 8XY5 and 8XY7 always (R75). -/
def State.writeFlagThenResult (s : State) (x : Nibble) (flag result : Byte) : State :=
  (s.writeV vf flag).writeV x result

/-- The order of `VF_ALIAS_ORDER`: 8XY4, 8XY6 and 8XYE (R75). -/
def State.writeFlagAndResult (s : State) (x : Nibble) (flag result : Byte) : State :=
  match s.params.vfAliasOrder with
  | .resultLast => s.writeFlagThenResult x flag result
  | .flagLast => (s.writeV x result).writeV vf flag

end Sys2Proof.Machine
end

