-- ==== Sys2Proof/Machine/Arith.lean ====
section
/-! DEFINITION. Arithmetic and logic (41_arithmetic R74-R86). Operands are read before any write (R11);
the next PC is PC + 2. -/

namespace Sys2Proof.Machine

/-- 6XNN: `V[x] <- nn` (R76). -/
def execLdImm (x : Nibble) (nn : Byte) (s : State) : Result := finish s.pc (s.writeV x nn)

/-- 7XNN: `V[x] <- V[x] +_8 nn`, no flag (R77). -/
def execAddImm (x : Nibble) (nn : Byte) (s : State) : Result :=
  finish s.pc (s.writeV x (s.readV x + nn))

/-- 8XY0: `V[x] <- V[y]` (R78). -/
def execLdReg (x y : Nibble) (s : State) : Result := finish s.pc (s.writeV x (s.readV y))

/-- 8XY1: bitwise or, VF not written unless x = F (R79). -/
def execOrReg (x y : Nibble) (s : State) : Result :=
  finish s.pc (s.writeV x (s.readV x ||| s.readV y))

/-- 8XY2: bitwise and (R80). -/
def execAndReg (x y : Nibble) (s : State) : Result :=
  finish s.pc (s.writeV x (s.readV x &&& s.readV y))

/-- 8XY3: bitwise exclusive or (R81). -/
def execXorReg (x y : Nibble) (s : State) : Result :=
  finish s.pc (s.writeV x (s.readV x ^^^ s.readV y))

/-- 8XY4: add with carry flag (R82). -/
def execAddReg (x y : Nibble) (s : State) : Result :=
  let a := s.readV x
  let b := s.readV y
  finish s.pc (s.writeFlagAndResult x (carryFlag a b) (a + b))

/-- 8XY5: `Vx - Vy` with the no-borrow flag, flag written first (R83). -/
def execSub (x y : Nibble) (s : State) : Result :=
  let a := s.readV x
  let b := s.readV y
  finish s.pc (s.writeFlagThenResult x (noBorrowFlag s.params.subEqualFlag a b) (a - b))

/-- 8XY6: logical shift right by 1; Vy is not read (R84). -/
def execShr (x _y : Nibble) (s : State) : Result :=
  let a := s.readV x
  finish s.pc (s.writeFlagAndResult x (shrFlag a) (a >>> 1))

/-- 8XY7: `Vy - Vx` with the no-borrow flag, flag written first, result to Vx (R85). -/
def execSubn (x y : Nibble) (s : State) : Result :=
  let a := s.readV x
  let b := s.readV y
  finish s.pc (s.writeFlagThenResult x (noBorrowFlag s.params.subEqualFlag b a) (b - a))

/-- 8XYE: logical shift left by 1; Vy is not read (R86). -/
def execShl (x _y : Nibble) (s : State) : Result :=
  let a := s.readV x
  finish s.pc (s.writeFlagAndResult x (shlFlag a) (a <<< 1))

end Sys2Proof.Machine
end

