-- ==== Sys2Proof/Machine/Operands.lean ====
section
/-! DEFINITION. Operand forms (30_encoding R51, R11): how the fields of an opcode become values, the key
an instruction names, and the register ranges of the block transfers. -/

namespace Sys2Proof.Machine

/-- `zext_16(nnn)` (R51). -/
def zextAddr (nnn : Addr12) : Word := nnn.setWidth 16

/-- `zext_16(b)` of a byte (R51, R97, R114, R115). -/
def zextByte (b : Byte) : Word := b.setWidth 16

/-- The key a value names: its own number, or what `KEY_INDEX_POLICY` says above 15 (R108, R123). -/
def keyIndex (policy : Config.KeyIndexPolicy) (v : Byte) : Except Fault Nibble :=
  if 15 < v.toNat then
    match policy with
    | .fault => .error (.keyIndexOutOfRange v)
    | .lowNibble => .ok (v.extractLsb' 0 4)
  else .ok (v.extractLsb' 0 4)

/-- The lowest pressed key, if any (R111, D4). -/
def State.lowestPressed (s : State) : Option Nibble :=
  ((List.range 16).map (BitVec.ofNat 4)).find? s.pressed

/-- What FX0A writes for the pressed key `k` (R111). -/
def waitkeyByte (w : Config.WaitkeyValue) (k : Nibble) : Byte :=
  match w with
  | .keyState => 0x01
  | .keyIndex => k.setWidth 8

/-- V0, …, Vx in ascending order (R117). -/
def State.regsUpTo (s : State) (x : Nibble) : List Byte :=
  (List.range (x.toNat + 1)).map fun k => s.readV (BitVec.ofNat 4 k)

/-- Writes bytes to registers of ascending number from `k` on (R118). -/
def State.writeRegs (s : State) (k : Nat) : List Byte → State
  | [] => s
  | b :: bs => (s.writeV (BitVec.ofNat 4 k) b).writeRegs (k + 1) bs

/-- The hundreds, tens and ones digits of a byte (R116). -/
def bcdDigits (v : Byte) : List Byte :=
  [v / 100, (v / 10) % 10, v % 10]

/-- The start column of a sprite: Vx mod 64 (R103). -/
def startColumn (v : Byte) : Nat := v.toNat % 64

/-- The start row of a sprite: Vy mod 32 (R103). -/
def startRow (v : Byte) : Nat := v.toNat % 32

end Sys2Proof.Machine
end

