-- ==== Sys2Proof/Machine/Control.lean ====
section
/-! DEFINITION. Control flow (42_control_flow R89-R97). -/

namespace Sys2Proof.Machine

/-- 1NNN: next PC nnn (R90). -/
def execJp (nnn : Addr12) (s : State) : Result := finish (jumpPre (zextAddr nnn)) s

/-- `pc_pre` of a call (R91, D2). -/
def callPre (landing : Config.CallLanding) (nnn : Addr12) : Word :=
  match landing with
  | .target => jumpPre (zextAddr nnn)
  | .targetPlus2 => zextAddr nnn

/-- 2NNN: push PC, or `StackOverflow` when 16 addresses are held (R91, R120). -/
def execCall (nnn : Addr12) (s : State) : Result :=
  if stackCapacity ≤ s.sp then raise .stackOverflow s
  else finish (callPre s.params.callLanding nnn) (s.setStack (s.pc :: s.stack))

/-- 00EE: pop; next PC is the popped address + 2; `StackUnderflow` when empty (R92, R121). -/
def execRet (s : State) : Result :=
  match s.stack with
  | [] => raise .stackUnderflow s
  | a :: rest => finish a (s.setStack rest)

/-- 3XNN: skip if Vx = nn (R93). -/
def execSeImm (x : Nibble) (nn : Byte) (s : State) : Result :=
  finish (s.skipPre (s.readV x == nn)) s

/-- 4XNN: skip if Vx != nn (R94). -/
def execSneImm (x : Nibble) (nn : Byte) (s : State) : Result :=
  finish (s.skipPre (s.readV x != nn)) s

/-- 5XY0: skip if Vx = Vy (R95). -/
def execSeReg (x y : Nibble) (s : State) : Result :=
  finish (s.skipPre (s.readV x == s.readV y)) s

/-- 9XY0: skip if Vx != Vy (R96). -/
def execSneReg (x y : Nibble) (s : State) : Result :=
  finish (s.skipPre (s.readV x != s.readV y)) s

/-- BNNN: next PC nnn + V0, not masked to 12 bits (R97). -/
def execJpV0 (nnn : Addr12) (s : State) : Result :=
  finish (jumpPre (zextAddr nnn + zextByte (s.readV 0))) s

end Sys2Proof.Machine
end

