-- ==== Sys2Proof/Machine/Drawing.lean ====
section
/-! DEFINITION. Drawing (44_drawing R101-R106). -/

namespace Sys2Proof.Machine

/-- 00E0: every cell 0; REDRAW set when `CLS_SETS_REDRAW` (R102). -/
def execCls (s : State) : Result :=
  finish s.pc ((s.setFb Frame.blank).setRedraw (s.params.clsSetsRedraw || s.redraw))

/-- A blit under way: the framebuffer so far, and whether a lit cell has been turned off (R104). -/
structure Blit where
  fb : Frame
  hit : Bool
  deriving DecidableEq, Repr

/-- One cell of the sprite rectangle (R103, R105): off the screen `DRAW_EDGE` decides, lit or not; on
the screen a lit bit toggles the cell and a lit cell turned off is a collision. -/
def drawCell (edge : Config.DrawEdge) (bit : Bool) (px py : Nat) (b : Blit) : Except Fault Blit :=
  if 63 < px ∨ 31 < py then
    match edge with
    | .clip => .ok b
    | .fault => .error .drawOutOfBounds
  else if bit then .ok ⟨b.fb.toggle px py, b.hit || b.fb.pixel px py⟩
  else .ok b

/-- The columns `c` of one sprite row, bit 7 - c of its byte (R101, R103). -/
def drawCells (edge : Config.DrawEdge) (byte : Byte) (x0 py : Nat) : List Nat → Blit → Except Fault Blit
  | [], b => .ok b
  | c :: cs, b =>
    match drawCell edge (byte.getLsbD (7 - c)) (x0 + c) py b with
    | .error f => .error f
    | .ok b' => drawCells edge byte x0 py cs b'

/-- The rows `r` of a sprite: read the byte at I + r, then its cells (R103, D35). -/
def State.drawRows (s : State) (x0 y0 : Nat) : List Nat → Blit → Except Fault Blit
  | [], b => .ok b
  | r :: rs, b =>
    match s.memRead (s.i.toNat + r) with
    | .error f => .error f
    | .ok byte =>
      match drawCells s.params.drawEdge byte x0 (y0 + r) (List.range 8) b with
      | .error f => .error f
      | .ok b' => s.drawRows x0 y0 rs b'

/-- DXYN: XOR-blit of n rows at (Vx mod 64, Vy mod 32); VF is the collision flag; REDRAW is set
(R103, R104, R106). -/
def execDrw (x y n : Nibble) (s : State) : Result :=
  match s.drawRows (startColumn (s.readV x)) (startRow (s.readV y)) (List.range n.toNat) ⟨s.fb, false⟩ with
  | .error f => raise f s
  | .ok b => finish s.pc (((s.setFb b.fb).setRedraw true).writeV vf (flagByte b.hit))

end Sys2Proof.Machine
end

