-- ==== Sys2Proof/Machine/IndexKeysTimers.lean ====
section
/-! DEFINITION. Index register, keys, timers and memory transfer (45_timers_keys_memory R107-R118). -/

namespace Sys2Proof.Machine

/-- ANNN: `I <- zext_16(nnn)` (R107). -/
def execLdI (nnn : Addr12) (s : State) : Result := finish s.pc (s.setI (zextAddr nnn))

/-- EX9E: skip if the key Vx names is pressed (R108). -/
def execSkp (x : Nibble) (s : State) : Result :=
  match keyIndex s.params.keyIndexPolicy (s.readV x) with
  | .error f => raise f s
  | .ok k => finish (s.skipPre (s.pressed k)) s

/-- EXA1: skip if the key Vx names is not pressed (R109). -/
def execSknp (x : Nibble) (s : State) : Result :=
  match keyIndex s.params.keyIndexPolicy (s.readV x) with
  | .error f => raise f s
  | .ok k => finish (s.skipPre (!s.pressed k)) s

/-- FX07: `V[x] <- DT`, before this cycle's tick (R110). -/
def execLdVxDt (x : Nibble) (s : State) : Result := finish s.pc (s.writeV x s.dt)

/-- FX0A: with a key pressed write Vx, else repeat this instruction (R111). -/
def execLdVxK (x : Nibble) (s : State) : Result :=
  match s.lowestPressed with
  | some k => finish s.pc (s.writeV x (waitkeyByte s.params.waitkeyValue k))
  | none => finish (s.pc - 2) s

/-- FX15: `DT <- V[x]` (R112). -/
def execLdDtVx (x : Nibble) (s : State) : Result := finish s.pc (s.setDt (s.readV x))

/-- FX18: `ST <- V[x]` (R113). -/
def execLdStVx (x : Nibble) (s : State) : Result := finish s.pc (s.setSt (s.readV x))

/-- FX1E: `I <- I +_16 zext_16(V[x])`, no flag (R114). -/
def execAddI (x : Nibble) (s : State) : Result := finish s.pc (s.setI (s.i + zextByte (s.readV x)))

/-- FX29: `I <- zext_16(V[x]) * 5` (R115). -/
def execLdF (x : Nibble) (s : State) : Result := finish s.pc (s.setI (zextByte (s.readV x) * 5))

/-- FX33: the three decimal digits of Vx at I, I+1, I+2 (R116). -/
def execLdB (x : Nibble) (s : State) : Result :=
  s.finishOr (s.memWriteAll s.i.toNat (bcdDigits (s.readV x)))

/-- FX55: V0..Vx to memory at I on; I unchanged (R117, D16). -/
def execStoreRegs (x : Nibble) (s : State) : Result :=
  s.finishOr (s.memWriteAll s.i.toNat (s.regsUpTo x))

/-- FX65: memory at I on to V0..Vx; I unchanged (R118, D16). -/
def execLoadRegs (x : Nibble) (s : State) : Result :=
  match s.memReadAll s.i.toNat (x.toNat + 1) with
  | .error f => raise f s
  | .ok bs => finish s.pc (s.writeRegs 0 bs)

end Sys2Proof.Machine
end

