-- ==== Sys2Proof/Machine/NoOp.lean ====
section
/-! DEFINITION. The undecoded opcodes (40_cycle R70, 41_arithmetic R87, 30_encoding R59): each is the
no-op, which advances PC. -/

namespace Sys2Proof.Machine

/-- The no-op (R70): `pc_pre` stays PC and nothing else changes. -/
def noOp (s : State) : Result := finish s.pc s

/-- 8XY8 (R87). -/
def execNop8XY8 (_ _ : Nibble) (s : State) : Result := noOp s
/-- 8XY9 (R87). -/
def execNop8XY9 (_ _ : Nibble) (s : State) : Result := noOp s
/-- 8XYA (R87). -/
def execNop8XYA (_ _ : Nibble) (s : State) : Result := noOp s
/-- 8XYB (R87). -/
def execNop8XYB (_ _ : Nibble) (s : State) : Result := noOp s
/-- 8XYC (R87). -/
def execNop8XYC (_ _ : Nibble) (s : State) : Result := noOp s
/-- 8XYD (R87). -/
def execNop8XYD (_ _ : Nibble) (s : State) : Result := noOp s
/-- 8XYF (R87). -/
def execNop8XYF (_ _ : Nibble) (s : State) : Result := noOp s
/-- 0NNN other than 00E0 and 00EE (R54, R70). -/
def execNopSys (_ : Addr12) (s : State) : Result := noOp s
/-- Class E undecoded (R55, R70). -/
def execNopE (_ : Nibble) (_ : Byte) (s : State) : Result := noOp s
/-- Class F undecoded (R56, R70). -/
def execNopF (_ : Nibble) (_ : Byte) (s : State) : Result := noOp s
/-- 5XYn, n != 0, strict (R57, R70). -/
def execNopStrict5 (_ _ _ : Nibble) (s : State) : Result := noOp s
/-- 9XYn, n != 0, strict (R57, R70). -/
def execNopStrict9 (_ _ _ : Nibble) (s : State) : Result := noOp s

end Sys2Proof.Machine
end

