-- ==== Sys2Proof/Machine/Random.lean ====
section
/-! DEFINITION. Random (43_random R99, R100). -/

namespace Sys2Proof.Machine

/-- CXNN: `V[x] <- draw() & nn`, the drawn byte being a free value (R100). -/
def execRnd (x : Nibble) (nn : Byte) (s : State) : Result :=
  let (b, t) := s.draw
  finish s.pc (t.writeV x (b &&& nn))

end Sys2Proof.Machine
end

