-- ==== Sys2Proof/Machine/Step.lean ====
section
/-! DEFINITION. One cycle (40_cycle R63, R64), and the same instruction placed where it will be fetched. -/

namespace Sys2Proof.Machine

/-- A cycle. On a machine that holds a fault nothing changes and the fault is returned again (R64). Else
fetch, decode, execute with the PC step, and the timer tick, each in `Ops` (R63). -/
def step (s : State) : Host.Outcome State Fault Refusal :=
  match s.fault with
  | some f => .fault f
  | none =>
    match s.fetch with
    | .error f => raise f s
    | .ok op =>
      match exec (decode s.params.skipRegStrict op) s with
      | .next t => .next t.endCycle
      | .fault f => .fault f
      | .refused r => .refused r

/-- `s` with the table word `w` of `nbits` bits stored at PC and PC + 1 in memory order; unchanged when
those are not both addresses of memory (log entries 17, 18). -/
def State.withFetchWord (s : State) (nbits w : Nat) : State :=
  let op : Word := BitVec.ofNat 16 (w % 2 ^ nbits)
  if s.pc.toNat + 1 ≤ 0xFFF then
    s.setMem ((s.mem.write s.pc.toNat (highByte op)).write (s.pc.toNat + 1) (lowByte op))
  else s

end Sys2Proof.Machine
end

