-- ==== Sys2Proof/Machine/Caller.lean ====
section
/-! DEFINITION. The caller's operations, each between cycles (60_exceptions R132-R136, 70_reset R139).
`init()` is `State.init` in Ops. -/

namespace Sys2Proof.Machine

/-- `cycle()`: the state after, and the result it returns (R63, R69). On a faulted machine the state is
unchanged and the recorded fault comes back (R64). No cycle is refused; that case would return no result. -/
def cycle (s : State) : State × Option CycleResult :=
  match step s with
  | .next t => (t, t.out)
  | .fault f => (s, some (.err f))
  | .refused _ => (s, none)

/-- Where `load` places a program (R34, R136). -/
abbrev programBase : Nat := 0x200

/-- The most bytes `load` takes (R6, R136). -/
abbrev maxProgram : Nat := 0xE00

/-- Why `load` writes nothing (R136). It is no fault of the core. -/
inductive LoadError where
  | loadTooLarge
  deriving DecidableEq, Repr

/-- `load(bytes)`: the bytes at 0x200 on, or `LoadTooLarge` and nothing written (R136, D21, D37). -/
def State.load (s : State) (bytes : List Byte) : Except LoadError State :=
  if maxProgram < bytes.length then .error .loadTooLarge
  else .ok (s.setMem (s.mem.writeList programBase bytes))

/-- `set_key(k, pressed)`: KEY[k] for k in 0..15; any other k changes nothing (R133). -/
def State.setKey (s : State) (k : Nat) (pressed : Bool) : State :=
  if h : k < 16 then s.setKeys (s.key.set k pressed) else s

/-- `read_fb()`: 2048 cells, cell y*64 + x being FB[x, y] (R23, R134). -/
def State.readFb (s : State) : Vector Bool 2048 :=
  Vector.ofFn fun k => s.fb.pixel (k.val % 64) (k.val / 64)

/-- `read_redraw()` (R134). -/
def State.readRedraw (s : State) : Bool := s.redraw

/-- `clear_redraw()` (R134). -/
def State.clearRedraw (s : State) : State := s.setRedraw false

/-- `read_fault()` (R125, R132). -/
def State.readFault (s : State) : Option Fault := s.fault

end Sys2Proof.Machine
end

