-- ==== Sys2Proof/Safety.lean ====
section
/-! DEFINITION. The terms claims use: the invariant of a run, what a fault leaves, what an instruction
may change, and the shapes of effect that several instructions share. -/

namespace Sys2Proof.Machine

/-- The invariant of every state of a run: memory is canonical (R33); the stack holds at most 16
addresses (R19), each the address of a CALL, so at most 0xFFE (R92); and a machine that holds a fault
last returned it (R125). -/
def State.Inv (s : State) : Prop :=
  s.mem.wf = true ∧ s.stack.length ≤ 16 ∧ (∀ a ∈ s.stack, a.toNat ≤ 0xFFE) ∧
    ∀ f, s.fault = some f → s.out = some (.err f)

/-- The parts of the state, named so that a frame can say which of them an instruction leaves alone. -/
inductive Part where
  | mem | v | i | pc | stack | dt | st | key | fb | redraw | fault | out | params | freeCount
  deriving DecidableEq, Repr

/-- The part reads the same in both states; memory byte by byte, registers one by one, the screen
cell by cell. -/
def Part.same (s t : State) : Part → Prop
  | .mem => ∀ a, t.mem.read a = s.mem.read a
  | .v => ∀ z, t.readV z = s.readV z
  | .i => t.i = s.i
  | .pc => t.pc = s.pc
  | .stack => t.stack = s.stack
  | .dt => t.dt = s.dt
  | .st => t.st = s.st
  | .key => ∀ k, t.pressed k = s.pressed k
  | .fb => ∀ x y, t.fb.pixel x y = s.fb.pixel x y
  | .redraw => t.redraw = s.redraw
  | .fault => t.fault = s.fault
  | .out => t.out = s.out
  | .params => t.params = s.params
  | .freeCount => t.freeCount = s.freeCount

/-- Every part not listed is unchanged from `s` to `t`. -/
def SameBut (changed : List Part) (s t : State) : Prop := ∀ p, p ∉ changed → Part.same s t p

/-- `t` is what fault `f` leaves of `s` (R125, R126): the fault recorded and returned; PC, I, STACK, DT,
ST, KEY and the parameters as before; nothing said of V, MEM, FB and REDRAW. -/
def FaultLeaves (f : Fault) (s t : State) : Prop :=
  t.fault = some f ∧ t.out = some (.err f) ∧
    SameBut [.v, .mem, .fb, .redraw, .fault, .out, .freeCount] s t

/-- The instruction completes with no effect but the PC step (R70). -/
def OnlyAdvances (i : Instr) (s : State) : Prop :=
  ∃ t, exec i s = .next t ∧ t.pc = s.pc + 2 ∧ SameBut [.pc] s t

/-- The instruction completes, `V[x]` holds `b`, every other register is unchanged, PC moves on. -/
def WritesOnly (i : Instr) (s : State) (x : Nibble) (b : Byte) : Prop :=
  ∃ t, exec i s = .next t ∧ t.readV x = b ∧ (∀ z, z ≠ x → t.readV z = s.readV z) ∧
    t.pc = s.pc + 2 ∧ SameBut [.v, .pc] s t

/-- The instruction completes with result `r` for `V[x]` and flag `f` for VF, PC moving on; when x is
F, VF ends holding `last` (R75). -/
def WritesFlagged (i : Instr) (s : State) (x : Nibble) (f r last : Byte) : Prop :=
  ∃ t, exec i s = .next t ∧ (x ≠ vf → t.readV x = r ∧ t.readV vf = f) ∧
    (x = vf → t.readV vf = last) ∧ (∀ z, z ≠ x → z ≠ vf → t.readV z = s.readV z) ∧
    t.pc = s.pc + 2 ∧ SameBut [.v, .pc] s t

/-- What VF holds after 8XY4, 8XY6 and 8XYE with x = F (R75). -/
def aliased (order : Config.VfAliasOrder) (f r : Byte) : Byte :=
  match order with
  | .resultLast => r
  | .flagLast => f

/-- The instruction completes with nothing changed but PC, which becomes `next`. -/
def GoesTo (i : Instr) (s : State) (next : Word) : Prop :=
  ∃ t, exec i s = .next t ∧ t.pc = next ∧ SameBut [.pc] s t

/-- The instruction ends in the fault, leaving what a fault leaves. -/
def EndsIn (i : Instr) (s : State) (f : Fault) : Prop :=
  ∃ t, exec i s = .next t ∧ FaultLeaves f s t

/-- A transfer of the bytes from I to I + k stays in memory (R40). -/
def transferFits (s : State) (k : Nat) : Prop := s.i.toNat + k ≤ 0xFFF

/-- The first address above 0xFFF that an ascending transfer from I meets (R122). -/
def firstOutside (s : State) : Nat := max s.i.toNat 0x1000

/-- The sprite bit that falls on cell (px, py) of the screen, for a sprite of n rows at (x0, y0) read
from the bytes at I (R101, R103). -/
def spriteBit (s : State) (x0 y0 n px py : Nat) : Bool :=
  decide (x0 ≤ px) && decide (px < x0 + 8) && decide (y0 ≤ py) && decide (py < y0 + n)
    && (s.mem.read (s.i.toNat + (py - y0))).getLsbD (7 - (px - x0))

/-- The sprite's rectangle lies on the screen (R105). -/
def onScreen (x0 y0 n : Nat) : Prop := n = 0 ∨ (x0 + 8 ≤ 64 ∧ y0 + n ≤ 32)

end Sys2Proof.Machine

namespace Sys2Proof

open Sys2Proof.Machine

/-- The general registers an instruction that raises no fault may change (R15 and each rule). -/
def Instr.mayWrite (i : Instr) (z : Nibble) : Bool :=
  match i with
  | .cls => false
  | .ret => false
  | .jp _ => false
  | .call _ => false
  | .seImm _ _ => false
  | .sneImm _ _ => false
  | .seReg _ _ => false
  | .ldImm x _ => z == x
  | .addImm x _ => z == x
  | .ldReg x _ => z == x
  | .orReg x _ => z == x
  | .andReg x _ => z == x
  | .xorReg x _ => z == x
  | .addReg x _ => z == x || z == vf
  | .sub x _ => z == x || z == vf
  | .shr x _ => z == x || z == vf
  | .subn x _ => z == x || z == vf
  | .shl x _ => z == x || z == vf
  | .sneReg _ _ => false
  | .ldI _ => false
  | .jpV0 _ => false
  | .rnd x _ => z == x
  | .drw _ _ _ => z == vf
  | .skp _ => false
  | .sknp _ => false
  | .ldVxDt x => z == x
  | .ldVxK x => z == x
  | .ldDtVx _ => false
  | .ldStVx _ => false
  | .addI _ => false
  | .ldF _ => false
  | .ldB _ => false
  | .storeRegs _ => false
  | .loadRegs x => decide (z.toNat ≤ x.toNat)
  | .nop8XY8 _ _ => false
  | .nop8XY9 _ _ => false
  | .nop8XYA _ _ => false
  | .nop8XYB _ _ => false
  | .nop8XYC _ _ => false
  | .nop8XYD _ _ => false
  | .nop8XYF _ _ => false
  | .nopSys _ => false
  | .nopE _ _ => false
  | .nopF _ _ => false
  | .nopStrict5 _ _ _ => false
  | .nopStrict9 _ _ _ => false

/-- The parts other than V and PC an instruction that raises no fault may change (R17, R19, R20, R21,
R23, R24, R38, R99). -/
def Instr.mayChange (i : Instr) : List Part :=
  match i with
  | .cls => [.fb, .redraw]
  | .ret => [.stack]
  | .jp _ => []
  | .call _ => [.stack]
  | .seImm _ _ => []
  | .sneImm _ _ => []
  | .seReg _ _ => []
  | .ldImm _ _ => []
  | .addImm _ _ => []
  | .ldReg _ _ => []
  | .orReg _ _ => []
  | .andReg _ _ => []
  | .xorReg _ _ => []
  | .addReg _ _ => []
  | .sub _ _ => []
  | .shr _ _ => []
  | .subn _ _ => []
  | .shl _ _ => []
  | .sneReg _ _ => []
  | .ldI _ => [.i]
  | .jpV0 _ => []
  | .rnd _ _ => [.freeCount]
  | .drw _ _ _ => [.fb, .redraw]
  | .skp _ => []
  | .sknp _ => []
  | .ldVxDt _ => []
  | .ldVxK _ => []
  | .ldDtVx _ => [.dt]
  | .ldStVx _ => [.st]
  | .addI _ => [.i]
  | .ldF _ => [.i]
  | .ldB _ => [.mem]
  | .storeRegs _ => [.mem]
  | .loadRegs _ => []
  | .nop8XY8 _ _ => []
  | .nop8XY9 _ _ => []
  | .nop8XYA _ _ => []
  | .nop8XYB _ _ => []
  | .nop8XYC _ _ => []
  | .nop8XYD _ _ => []
  | .nop8XYF _ _ => []
  | .nopSys _ => []
  | .nopE _ _ => []
  | .nopF _ _ => []
  | .nopStrict5 _ _ _ => []
  | .nopStrict9 _ _ _ => []

/-- How many bytes from I on an instruction stores (R38). -/
def Instr.storeLength (i : Instr) : Nat :=
  match i with
  | .ldB _ => 3
  | .storeRegs x => x.toNat + 1
  | _ => 0

/-- The instructions whose next PC is not always PC + 2 (R67). -/
def Instr.transfers (i : Instr) : Bool :=
  match i with
  | .seImm _ _ => true
  | .sneImm _ _ => true
  | .seReg _ _ => true
  | .sneReg _ _ => true
  | .skp _ => true
  | .sknp _ => true
  | .jp _ => true
  | .jpV0 _ => true
  | .call _ => true
  | .ret => true
  | .ldVxK _ => true
  | _ => false

end Sys2Proof

namespace Sys2Proof.Machine

/-- Which instructions may raise which fault while executing (R119). -/
def Fault.raisedBy (f : Fault) (i : Instr) : Prop :=
  match f with
  | .stackOverflow => ∃ nnn, i = .call nnn
  | .stackUnderflow => i = .ret
  | .memoryOutOfBounds a =>
    0xFFF < a ∧ ((∃ x y n, i = .drw x y n) ∨ (∃ x, i = .ldB x) ∨ (∃ x, i = .storeRegs x) ∨ ∃ x, i = .loadRegs x)
  | .keyIndexOutOfRange v => 15 < v.toNat ∧ ((∃ x, i = .skp x) ∨ ∃ x, i = .sknp x)
  | .drawOutOfBounds => ∃ x y n, i = .drw x y n

end Sys2Proof.Machine
end

