-- ==== Sys2Proof/Certificates/Slice0/Obligations.lean ====
section
/-! DEFINITION. The statements for the provers, file by file of the spec's numbered rules. -/

open Sys2Proof Sys2Proof.Machine

/-! Reset and initialisation. -/

/-- R31: the value of every field right after reset. -/
def Obligations.ResetGivesInitialValues : Prop :=
  (∀ (a : Nat) (h : a < 80), State.reset.mem.read a = State.reset.params.font[a]) ∧
  (∀ a, 80 ≤ a → a ≤ 0xFFF → State.reset.mem.read a = 0) ∧
  (∀ z, State.reset.readV z = 0) ∧
  State.reset.i = 0x0000 ∧ State.reset.pc = 0x0200 ∧
  State.reset.stack = [] ∧ State.reset.sp = 0 ∧
  State.reset.dt = 0 ∧ State.reset.st = 0 ∧
  (∀ k, State.reset.pressed k = false) ∧
  (∀ x y, State.reset.fb.pixel x y = false) ∧
  State.reset.redraw = false ∧ State.reset.fault = none

/-- R139: `init()` from any state, faulted or not. -/
def Obligations.InitResetsEveryField : Prop :=
  ∀ s : State,
    (∀ (a : Nat) (h : a < 80), s.init.mem.read a = s.params.font[a]) ∧
    (∀ a, 80 ≤ a → a ≤ 0xFFF → s.init.mem.read a = 0) ∧
    (∀ z, s.init.readV z = 0) ∧ (∀ k, s.init.pressed k = false) ∧
    s.init.i = 0x0000 ∧ s.init.pc = 0x0200 ∧ s.init.stack = [] ∧
    s.init.dt = 0 ∧ s.init.st = 0 ∧ (∀ x y, s.init.fb.pixel x y = false) ∧
    s.init.redraw = false ∧ s.init.fault = none

/-! Encoding. -/

/-- Decoding the word, or the two bytes in memory order, of a well-formed instruction gives it back. -/
def Obligations.DecodeInvertsEncode : Prop :=
  ∀ (strict : Bool) (i : Instr) (rest : List Byte), i.wf strict = true →
    decode strict (encode i) = i ∧ decodeBytes strict (encodeBytes i ++ rest) = .ok (i, rest)

/-- Encoding what a word decodes to gives the word back, but for the low nibble that 5XYn and 9XYn
ignore when SKIP_REG_STRICT is false (log entry 15). -/
def Obligations.EncodeInvertsDecode : Prop :=
  ∀ (strict : Bool) (w : Word),
    encode (decode strict w) =
      if strict = false ∧ (w >>> 12 = 0x5 ∨ w >>> 12 = 0x9) then w &&& 0xFFF0 else w

/-- R58: every word decodes, to a well-formed instruction, and to the only one whose word it is. -/
def Obligations.DecodingIsTotalAndUnambiguous : Prop :=
  ∀ (strict : Bool) (w : Word),
    (decode strict w).wf strict = true ∧
    (∀ i : Instr, i.wf strict = true → encode i = w → i = decode strict w) ∧
    ∀ rest, decodeBytes strict (highByte w :: lowByte w :: rest) = .ok (decode strict w, rest)

/-- R52 to R57: which words decode to which instruction, by mask and match. -/
def Obligations.DecodeFollowsOpcodeMap : Prop :=
  ∀ (strict : Bool) (w : Word) (x y n : Nibble) (nn : Byte) (nnn : Addr12),
    x.toNat = w.toNat / 256 % 16 → y.toNat = w.toNat / 16 % 16 → n.toNat = w.toNat % 16 →
    nn.toNat = w.toNat % 256 → nnn.toNat = w.toNat % 4096 →
    (w = 0x00E0 → decode strict w = .cls) ∧
    (w = 0x00EE → decode strict w = .ret) ∧
    (w &&& 0xF000 = 0x0000 → w ≠ 0x00E0 → w ≠ 0x00EE → decode strict w = .nopSys nnn) ∧
    (w &&& 0xF000 = 0x1000 → decode strict w = .jp nnn) ∧
    (w &&& 0xF000 = 0x2000 → decode strict w = .call nnn) ∧
    (w &&& 0xF000 = 0x3000 → decode strict w = .seImm x nn) ∧
    (w &&& 0xF000 = 0x4000 → decode strict w = .sneImm x nn) ∧
    (w &&& 0xF000 = 0x5000 → decode strict w =
      if strict = true ∧ n ≠ 0 then .nopStrict5 x y n else .seReg x y) ∧
    (w &&& 0xF000 = 0x6000 → decode strict w = .ldImm x nn) ∧
    (w &&& 0xF000 = 0x7000 → decode strict w = .addImm x nn) ∧
    (w &&& 0xF00F = 0x8000 → decode strict w = .ldReg x y) ∧
    (w &&& 0xF00F = 0x8001 → decode strict w = .orReg x y) ∧
    (w &&& 0xF00F = 0x8002 → decode strict w = .andReg x y) ∧
    (w &&& 0xF00F = 0x8003 → decode strict w = .xorReg x y) ∧
    (w &&& 0xF00F = 0x8004 → decode strict w = .addReg x y) ∧
    (w &&& 0xF00F = 0x8005 → decode strict w = .sub x y) ∧
    (w &&& 0xF00F = 0x8006 → decode strict w = .shr x y) ∧
    (w &&& 0xF00F = 0x8007 → decode strict w = .subn x y) ∧
    (w &&& 0xF00F = 0x8008 → decode strict w = .nop8XY8 x y) ∧
    (w &&& 0xF00F = 0x8009 → decode strict w = .nop8XY9 x y) ∧
    (w &&& 0xF00F = 0x800A → decode strict w = .nop8XYA x y) ∧
    (w &&& 0xF00F = 0x800B → decode strict w = .nop8XYB x y) ∧
    (w &&& 0xF00F = 0x800C → decode strict w = .nop8XYC x y) ∧
    (w &&& 0xF00F = 0x800D → decode strict w = .nop8XYD x y) ∧
    (w &&& 0xF00F = 0x800E → decode strict w = .shl x y) ∧
    (w &&& 0xF00F = 0x800F → decode strict w = .nop8XYF x y) ∧
    (w &&& 0xF000 = 0x9000 → decode strict w =
      if strict = true ∧ n ≠ 0 then .nopStrict9 x y n else .sneReg x y) ∧
    (w &&& 0xF000 = 0xA000 → decode strict w = .ldI nnn) ∧
    (w &&& 0xF000 = 0xB000 → decode strict w = .jpV0 nnn) ∧
    (w &&& 0xF000 = 0xC000 → decode strict w = .rnd x nn) ∧
    (w &&& 0xF000 = 0xD000 → decode strict w = .drw x y n) ∧
    (w &&& 0xF0FF = 0xE09E → decode strict w = .skp x) ∧
    (w &&& 0xF0FF = 0xE0A1 → decode strict w = .sknp x) ∧
    (w &&& 0xF000 = 0xE000 → nn ≠ 0x9E → nn ≠ 0xA1 → decode strict w = .nopE x nn) ∧
    (w &&& 0xF0FF = 0xF007 → decode strict w = .ldVxDt x) ∧
    (w &&& 0xF0FF = 0xF00A → decode strict w = .ldVxK x) ∧
    (w &&& 0xF0FF = 0xF015 → decode strict w = .ldDtVx x) ∧
    (w &&& 0xF0FF = 0xF018 → decode strict w = .ldStVx x) ∧
    (w &&& 0xF0FF = 0xF01E → decode strict w = .addI x) ∧
    (w &&& 0xF0FF = 0xF029 → decode strict w = .ldF x) ∧
    (w &&& 0xF0FF = 0xF033 → decode strict w = .ldB x) ∧
    (w &&& 0xF0FF = 0xF055 → decode strict w = .storeRegs x) ∧
    (w &&& 0xF0FF = 0xF065 → decode strict w = .loadRegs x) ∧
    (w &&& 0xF000 = 0xF000 → nn ≠ 0x07 → nn ≠ 0x0A → nn ≠ 0x15 → nn ≠ 0x18 → nn ≠ 0x1E → nn ≠ 0x29 →
      nn ≠ 0x33 → nn ≠ 0x55 → nn ≠ 0x65 → decode strict w = .nopF x nn)

/-- One word of each family, from the examples of the rules and 95_test_vectors. -/
def Obligations.SampleWordsDecode : Prop :=
  decode false 0x00E0 = .cls ∧ decode false 0x00EE = .ret ∧ decode false 0x1200 = .jp 0x200 ∧
  decode false 0x6A42 = .ldImm 0xA 0x42 ∧ decode false 0x8014 = .addReg 0x0 0x1 ∧
  decode false 0xC30F = .rnd 0x3 0x0F ∧ decode false 0xD015 = .drw 0x0 0x1 0x5 ∧
  decode false 0xE59E = .skp 0x5 ∧ decode false 0xF265 = .loadRegs 0x2 ∧
  decode false 0x5231 = .seReg 0x2 0x3 ∧ decode true 0x5231 = .nopStrict5 0x2 0x3 0x1 ∧
  decode false 0x8129 = .nop8XY9 0x1 0x2

/-! The cycle. -/

/-- R63: when no fault is held and the two bytes at PC decode to a well-formed instruction, a step is
`exec` of it and then the end of the cycle: the tick if no fault was raised, nothing if one was. -/
def Obligations.StepRunsDecodedInstruction : Prop :=
  ∀ (s t : State) (i : Instr), s.fault = none → s.pc.toNat + 1 ≤ 0xFFF →
    i.wf s.params.skipRegStrict = true →
    decodeBytes s.params.skipRegStrict [s.mem.read s.pc.toNat, s.mem.read (s.pc.toNat + 1)] = .ok (i, []) →
    exec i s = .next t →
    (t.fault = none → step s = .next t.timerTick) ∧ (t.fault ≠ none → step s = .next t)

/-- R68: every cycle that does not fault ends with the tick of DT and ST and returns the tone; the tick
touches nothing else. `u` is the state the instruction left. -/
def Obligations.CycleTicksTimers : Prop :=
  ∀ s t : State, step s = .next t → t.fault = none →
    ∃ (op : Word) (u : State), s.fetch = .ok op ∧ exec (decode s.params.skipRegStrict op) s = .next u ∧
      t.dt.toNat = u.dt.toNat - 1 ∧ t.st.toNat = u.st.toNat - 1 ∧
      t.out = some (.ok (decide (u.st = 1))) ∧ SameBut [.dt, .st, .out] u t

/-- R64: a cycle on a faulted machine changes nothing and returns the fault again; of the caller's
operations only `init()` clears it. -/
def Obligations.FaultedMachineRepeatsFault : Prop :=
  ∀ (s : State) (f : Fault), s.fault = some f →
    step s = .fault f ∧ cycle s = (s, some (.err f)) ∧ s.init.fault = none ∧
    (∀ bs t, s.load bs = .ok t → t.fault = some f) ∧ (∀ k b, (s.setKey k b).fault = some f) ∧
    s.clearRedraw.fault = some f

/-- R41: a fetch at 0xFFF faults on 0x1000, one at or above 0x1000 faults on PC; the fault is recorded
and everything R126 keeps is kept. -/
def Obligations.FetchFaultReportsFirstAddress : Prop :=
  ∀ s : State, s.fault = none →
    (s.pc = 0x0FFF → ∃ t, step s = .next t ∧ FaultLeaves (.memoryOutOfBounds 0x1000) s t) ∧
    (0x1000 ≤ s.pc.toNat → ∃ t, step s = .next t ∧ FaultLeaves (.memoryOutOfBounds s.pc.toNat) s t)

/-- R125, R126: whatever raises it, a fault is recorded and returned, and leaves PC, I, STACK, DT, ST, KEY
(and the parameters) as before the cycle: no PC step, no tick. -/
def Obligations.FaultKeepsControlState : Prop :=
  ∀ (s t : State) (f : Fault), step s = .next t → t.fault = some f → FaultLeaves f s t

/-- R69: every cycle returns a result, `Ok` with no fault held after it or `Err` of the fault held. -/
def Obligations.CycleAlwaysReturnsResult : Prop :=
  ∀ s : State,
    (∃ tone, (cycle s).2 = some (.ok tone) ∧ (cycle s).1.fault = none) ∨
    ∃ f, (cycle s).2 = some (.err f) ∧ (cycle s).1.fault = some f

/-- The invariant is kept by every step, from every state that meets it. -/
def Obligations.StepKeepsInvariant : Prop :=
  ∀ s t : State, s.Inv → step s = .next t → t.Inv

/-- The invariant holds at reset. -/
def Obligations.ResetMeetsInvariant : Prop := State.reset.Inv

/-- The caller's operations keep the invariant. -/
def Obligations.CallerKeepsInvariant : Prop :=
  ∀ s : State, s.Inv →
    s.init.Inv ∧ (∀ bs t, s.load bs = .ok t → t.Inv) ∧ (∀ k b, (s.setKey k b).Inv) ∧ s.clearRedraw.Inv

/-- The frame of all 46 instructions: one that raises no fault changes only PC, the parts and registers
its rule names, and the bytes from I on that it stores. -/
def Obligations.CompletedInstructionFrame : Prop :=
  ∀ (i : Instr) (s t : State), exec i s = .next t → s.fault = none → t.fault = none →
    SameBut (.pc :: .v :: i.mayChange) s t ∧
    (∀ z, i.mayWrite z = false → t.readV z = s.readV z) ∧
    ∀ a, ¬ (s.i.toNat ≤ a ∧ a < s.i.toNat + i.storeLength) → t.mem.read a = s.mem.read a

/-- R119: each fault kind is raised only by the instructions listed for it, with its recorded value. -/
def Obligations.FaultsOnlyFromTheirInstructions : Prop :=
  ∀ (i : Instr) (s t : State) (f : Fault), exec i s = .next t → s.fault = none → t.fault = some f →
    f.raisedBy i

/-- R67: an instruction that transfers no control and raises no fault has next PC = PC + 2. -/
def Obligations.OrdinaryInstructionsAdvanceByTwo : Prop :=
  ∀ (i : Instr) (s t : State), i.transfers = false → exec i s = .next t → s.fault = none →
    t.fault = none → t.pc.toNat = (s.pc.toNat + 2) % 65536

/-- R70, R87: every no-op instruction completes in every state and changes PC only. -/
def Obligations.NoOpsOnlyAdvance : Prop :=
  ∀ (s : State) (x y n : Nibble) (nn : Byte) (nnn : Addr12),
    OnlyAdvances (.nop8XY8 x y) s ∧ OnlyAdvances (.nop8XY9 x y) s ∧ OnlyAdvances (.nop8XYA x y) s ∧
    OnlyAdvances (.nop8XYB x y) s ∧ OnlyAdvances (.nop8XYC x y) s ∧ OnlyAdvances (.nop8XYD x y) s ∧
    OnlyAdvances (.nop8XYF x y) s ∧ OnlyAdvances (.nopSys nnn) s ∧ OnlyAdvances (.nopE x nn) s ∧
    OnlyAdvances (.nopF x nn) s ∧ OnlyAdvances (.nopStrict5 x y n) s ∧ OnlyAdvances (.nopStrict9 x y n) s

/-! Arithmetic and logic. -/

/-- R76, R78: load immediate and copy, for every register pair, VF included. -/
def Obligations.LoadImmediateAndCopy : Prop :=
  ∀ (s : State) (x y : Nibble) (nn : Byte),
    WritesOnly (.ldImm x nn) s x nn ∧ WritesOnly (.ldReg x y) s x (s.readV y)

/-- R77: add immediate modulo 256, no flag written. -/
def Obligations.AddImmediateWraps : Prop :=
  ∀ (s : State) (x : Nibble) (nn : Byte),
    ∃ b : Byte, b.toNat = ((s.readV x).toNat + nn.toNat) % 256 ∧ WritesOnly (.addImm x nn) s x b

/-- R79, R80, R81: or, and, exclusive or, bit by bit, VF untouched unless x = F. -/
def Obligations.BitwiseOperations : Prop :=
  ∀ (s : State) (x y : Nibble), ∃ o a e : Byte,
    (∀ k, k < 8 → o.getLsbD k = ((s.readV x).getLsbD k || (s.readV y).getLsbD k)) ∧
    (∀ k, k < 8 → a.getLsbD k = ((s.readV x).getLsbD k && (s.readV y).getLsbD k)) ∧
    (∀ k, k < 8 → e.getLsbD k = ((s.readV x).getLsbD k != (s.readV y).getLsbD k)) ∧
    WritesOnly (.orReg x y) s x o ∧ WritesOnly (.andReg x y) s x a ∧ WritesOnly (.xorReg x y) s x e

/-- R82: add with carry; with x = F the order of R75. -/
def Obligations.AddSetsCarry : Prop :=
  ∀ (s : State) (x y : Nibble), ∃ f r : Byte,
    r.toNat = ((s.readV x).toNat + (s.readV y).toNat) % 256 ∧
    f.toNat = (if 255 < (s.readV x).toNat + (s.readV y).toNat then 1 else 0) ∧
    WritesFlagged (.addReg x y) s x f r (aliased s.params.vfAliasOrder f r)

/-- R83, R85: subtract and reverse subtract with the no-borrow flag, which is written first, so with
x = F VF ends holding the result. -/
def Obligations.SubtractSetsNoBorrow : Prop :=
  ∀ (s : State) (x y : Nibble), ∃ f r g q : Byte,
    r.toNat = (256 + (s.readV x).toNat - (s.readV y).toNat) % 256 ∧
    q.toNat = (256 + (s.readV y).toNat - (s.readV x).toNat) % 256 ∧
    f.toNat = (if (s.readV y).toNat < (s.readV x).toNat then 1
      else if (s.readV x).toNat < (s.readV y).toNat then 0 else s.params.subEqualFlag.toNat) ∧
    g.toNat = (if (s.readV x).toNat < (s.readV y).toNat then 1
      else if (s.readV y).toNat < (s.readV x).toNat then 0 else s.params.subEqualFlag.toNat) ∧
    WritesFlagged (.sub x y) s x f r r ∧ WritesFlagged (.subn x y) s x g q q

/-- R84, R86: the shifts of Vx by one; VF is the old low bit, or the old high bit in place; whatever y
is. -/
def Obligations.ShiftsSetShiftedOutBit : Prop :=
  ∀ (s : State) (x : Nibble), ∃ f r g q : Byte,
    r.toNat = (s.readV x).toNat / 2 ∧ f.toNat = (s.readV x).toNat % 2 ∧
    q.toNat = (2 * (s.readV x).toNat) % 256 ∧ g.toNat = (if 128 ≤ (s.readV x).toNat then 128 else 0) ∧
    ∀ y : Nibble,
      WritesFlagged (.shr x y) s x f r (aliased s.params.vfAliasOrder f r) ∧
      WritesFlagged (.shl x y) s x g q (aliased s.params.vfAliasOrder g q)

/-! Control flow. -/

/-- R90: the jump lands on nnn, whatever it is. -/
def Obligations.JumpLandsOnTarget : Prop :=
  ∀ (s : State) (nnn : Addr12), ∃ next : Word, next.toNat = nnn.toNat ∧ GoesTo (.jp nnn) s next

/-- R91, R120: a call below depth 16 pushes its own address and lands where CALL_LANDING says; at depth
16 it overflows. -/
def Obligations.CallPushesAndLands : Prop :=
  ∀ (s : State) (nnn : Addr12),
    (s.sp < 16 → ∃ t, exec (.call nnn) s = .next t ∧ t.stack = s.pc :: s.stack ∧ t.sp = s.sp + 1 ∧
      (s.params.callLanding = .target → t.pc.toNat = nnn.toNat) ∧
      (s.params.callLanding = .targetPlus2 → t.pc.toNat = nnn.toNat + 2) ∧ SameBut [.pc, .stack] s t) ∧
    (16 ≤ s.sp → EndsIn (.call nnn) s .stackOverflow)

/-- R92, R121: a return pops the latest address, the next PC being two past it; on an empty stack it
underflows. -/
def Obligations.ReturnPops : Prop :=
  ∀ s : State,
    (∀ a rest, s.stack = a :: rest → ∃ t, exec .ret s = .next t ∧ t.stack = rest ∧
      t.pc.toNat = (a.toNat + 2) % 65536 ∧ SameBut [.pc, .stack] s t) ∧
    (s.sp = 0 → EndsIn .ret s .stackUnderflow)

/-- A call and, wherever it landed, a return come back to the word after the call with the stack as it
was (R91, R92). -/
def Obligations.CallThenReturnComesBack : Prop :=
  ∀ (s t : State) (nnn : Addr12), s.sp < 16 → exec (.call nnn) s = .next t →
    ∃ u, exec .ret t = .next u ∧ u.pc = s.pc + 2 ∧ SameBut [.pc] s u

/-- R93, R94: the skips on an immediate: PC + 4 when the condition holds, else PC + 2. -/
def Obligations.SkipsOnImmediate : Prop :=
  ∀ (s : State) (x : Nibble) (nn : Byte),
    GoesTo (.seImm x nn) s (if s.readV x = nn then s.pc + 4 else s.pc + 2) ∧
    GoesTo (.sneImm x nn) s (if s.readV x = nn then s.pc + 2 else s.pc + 4)

/-- R95, R96: the skips on two registers, likewise. -/
def Obligations.SkipsOnRegisters : Prop :=
  ∀ (s : State) (x y : Nibble),
    GoesTo (.seReg x y) s (if s.readV x = s.readV y then s.pc + 4 else s.pc + 2) ∧
    GoesTo (.sneReg x y) s (if s.readV x = s.readV y then s.pc + 2 else s.pc + 4)

/-- R97: the jump with offset lands on nnn + V0, not reduced to 12 bits. -/
def Obligations.JumpWithOffsetLands : Prop :=
  ∀ (s : State) (nnn : Addr12), ∃ next : Word,
    next.toNat = nnn.toNat + (s.readV 0).toNat ∧ GoesTo (.jpV0 nnn) s next

/-! Random. -/

/-- R100: Vx becomes one fresh byte of the oracle AND nn. The byte is a free value: this says nothing of
it, so bits where nn is 0 are 0 and no more is known. -/
def Obligations.RandomByteIsMasked : Prop :=
  ∀ (s : State) (x : Nibble) (nn : Byte), ∃ t, exec (.rnd x nn) s = .next t ∧
    t.readV x = Config.rand s.freeCount &&& nn ∧ (∀ k, nn.getLsbD k = false → (t.readV x).getLsbD k = false) ∧
    t.freeCount = s.freeCount + 1 ∧ (∀ z, z ≠ x → t.readV z = s.readV z) ∧
    t.pc = s.pc + 2 ∧ SameBut [.v, .pc, .freeCount] s t

/-! Drawing. -/

/-- R102: every cell 0; REDRAW set when CLS_SETS_REDRAW is true, else unchanged. -/
def Obligations.ClearScreenBlanksEveryCell : Prop :=
  ∀ s : State, ∃ t, exec .cls s = .next t ∧ (∀ x y, t.fb.pixel x y = false) ∧
    (s.params.clsSetsRedraw = true → t.redraw = true) ∧
    (s.params.clsSetsRedraw = false → t.redraw = s.redraw) ∧
    t.pc = s.pc + 2 ∧ SameBut [.fb, .redraw, .pc] s t

/-- R101, R103, R104: a sprite whose rows are in memory and, unless edges are clipped, whose rectangle is on
the screen, is XORed onto every cell; VF says whether a lit cell was turned off; REDRAW is set. -/
def Obligations.DrawXorsSprite : Prop :=
  ∀ (s : State) (x y n : Nibble) (x0 y0 : Nat),
    x0 = (s.readV x).toNat % 64 → y0 = (s.readV y).toNat % 32 →
    (n = 0 ∨ s.i.toNat + n.toNat ≤ 0x1000) →
    (s.params.drawEdge = .clip ∨ onScreen x0 y0 n.toNat) →
    ∃ t, exec (.drw x y n) s = .next t ∧
      (∀ px py, px < 64 → py < 32 →
        t.fb.pixel px py = (s.fb.pixel px py != spriteBit s x0 y0 n.toNat px py)) ∧
      ((∃ px py, px < 64 ∧ py < 32 ∧ s.fb.pixel px py = true ∧ spriteBit s x0 y0 n.toNat px py = true) →
        t.readV vf = 1) ∧
      ((∀ px py, px < 64 → py < 32 → s.fb.pixel px py = true → spriteBit s x0 y0 n.toNat px py = false) →
        t.readV vf = 0) ∧
      t.redraw = true ∧ (∀ z, z ≠ vf → t.readV z = s.readV z) ∧ t.pc = s.pc + 2 ∧
      SameBut [.v, .fb, .redraw, .pc] s t

/-- The property of R104: drawing the same sprite twice at the same place gives the framebuffer back. -/
def Obligations.DrawTwiceErases : Prop :=
  ∀ (s t u : State) (x y n : Nibble), x ≠ vf → y ≠ vf → s.fault = none →
    exec (.drw x y n) s = .next t → t.fault = none → exec (.drw x y n) t = .next u → u.fault = none →
    ∀ px py, u.fb.pixel px py = s.fb.pixel px py

/-- R105, R127: under DRAW_EDGE = fault the first row that is off the screen or out of memory decides the
fault, and for the same row the memory read wins. -/
def Obligations.DrawFaultsInRowOrder : Prop :=
  ∀ (s : State) (x y n : Nibble) (rowEdge rowMem : Nat), s.params.drawEdge = .fault →
    rowEdge = (if 56 < (s.readV x).toNat % 64 then 0 else 32 - (s.readV y).toNat % 32) →
    rowMem = 0x1000 - s.i.toNat →
    (rowMem ≤ rowEdge → rowMem < n.toNat → EndsIn (.drw x y n) s (.memoryOutOfBounds (firstOutside s))) ∧
    (rowEdge < rowMem → rowEdge < n.toNat → EndsIn (.drw x y n) s .drawOutOfBounds)

/-- R103, R122: under DRAW_EDGE = clip a sprite that runs past 0xFFF faults on the first address outside,
clipped rows included. -/
def Obligations.DrawPastMemoryFaults : Prop :=
  ∀ (s : State) (x y n : Nibble), s.params.drawEdge = .clip → n ≠ 0 → 0x1000 < s.i.toNat + n.toNat →
    EndsIn (.drw x y n) s (.memoryOutOfBounds (firstOutside s))

/-- R106: with n = 0 nothing is read or drawn, VF is 0 and REDRAW is set, whatever I is. -/
def Obligations.DrawZeroRows : Prop :=
  ∀ (s : State) (x y : Nibble), ∃ t, exec (.drw x y 0) s = .next t ∧ t.readV vf = 0 ∧ t.redraw = true ∧
    (∀ z, z ≠ vf → t.readV z = s.readV z) ∧ t.pc = s.pc + 2 ∧ SameBut [.v, .redraw, .pc] s t

/-! Index register, keys, timers, memory transfer. -/

/-- R107, R114, R115: the three writers of I. -/
def Obligations.IndexRegisterWriters : Prop :=
  ∀ (s : State) (x : Nibble) (nnn : Addr12),
    (∃ t, exec (.ldI nnn) s = .next t ∧ t.i.toNat = nnn.toNat ∧ t.pc = s.pc + 2 ∧ SameBut [.i, .pc] s t) ∧
    (∃ t, exec (.addI x) s = .next t ∧ t.i.toNat = (s.i.toNat + (s.readV x).toNat) % 65536 ∧
      t.pc = s.pc + 2 ∧ SameBut [.i, .pc] s t) ∧
    ∃ t, exec (.ldF x) s = .next t ∧ t.i.toNat = (s.readV x).toNat * 5 ∧ t.pc = s.pc + 2 ∧
      SameBut [.i, .pc] s t

/-- R108, R109: the skips on a key, which is the low nibble of Vx when Vx is at most 15 or the policy is
low_nibble; under the policy fault a larger Vx faults. -/
def Obligations.SkipsOnKey : Prop :=
  ∀ (s : State) (x k : Nibble), k.toNat = (s.readV x).toNat % 16 →
    ((s.readV x).toNat ≤ 15 ∨ s.params.keyIndexPolicy = .lowNibble →
      GoesTo (.skp x) s (if s.pressed k = true then s.pc + 4 else s.pc + 2) ∧
      GoesTo (.sknp x) s (if s.pressed k = true then s.pc + 2 else s.pc + 4)) ∧
    (15 < (s.readV x).toNat → s.params.keyIndexPolicy = .fault →
      EndsIn (.skp x) s (.keyIndexOutOfRange (s.readV x)) ∧
      EndsIn (.sknp x) s (.keyIndexOutOfRange (s.readV x)))

/-- R111: with no key pressed the instruction repeats, and its cycle still ticks the timers; with a key
pressed Vx gets 1, or the lowest pressed key's index. -/
def Obligations.WaitForKey : Prop :=
  ∀ (s : State) (x : Nibble),
    ((∀ k, s.pressed k = false) →
      GoesTo (.ldVxK x) s s.pc ∧
      (s.fault = none → s.fetch = .ok (encode (.ldVxK x)) → ∃ t, step s = .next t ∧ t.pc = s.pc ∧
        t.dt.toNat = s.dt.toNat - 1 ∧ t.st.toNat = s.st.toNat - 1 ∧ SameBut [.dt, .st, .out] s t)) ∧
    ∀ k, s.pressed k = true → (∀ j, j.toNat < k.toNat → s.pressed j = false) →
      ∃ b : Byte, (s.params.waitkeyValue = .keyState → b = 1) ∧
        (s.params.waitkeyValue = .keyIndex → b.toNat = k.toNat) ∧ WritesOnly (.ldVxK x) s x b

/-- R110, R112: the delay timer is read before the cycle's tick, and one written is ticked by the same
cycle. -/
def Obligations.DelayTimerCopies : Prop :=
  ∀ (s : State) (x : Nibble),
    WritesOnly (.ldVxDt x) s x s.dt ∧
    ∃ t, exec (.ldDtVx x) s = .next t ∧ t.dt = s.readV x ∧ t.pc = s.pc + 2 ∧ SameBut [.dt, .pc] s t ∧
      (s.fault = none → t.endCycle.dt.toNat = (s.readV x).toNat - 1)

/-- R113: the sound timer is set and ticked by the same cycle, whose tone is on exactly when Vx = 1. -/
def Obligations.SoundTimerSet : Prop :=
  ∀ (s : State) (x : Nibble),
    ∃ t, exec (.ldStVx x) s = .next t ∧ t.st = s.readV x ∧ t.pc = s.pc + 2 ∧ SameBut [.st, .pc] s t ∧
      (s.fault = none → t.endCycle.st.toNat = (s.readV x).toNat - 1 ∧
        t.endCycle.out = some (.ok (decide ((s.readV x).toNat = 1))))

/-- R116: the three digits of Vx at I, I+1, I+2, nothing else written; past 0xFFF the first address outside
faults. -/
def Obligations.BcdStore : Prop :=
  ∀ (s : State) (x : Nibble), s.mem.wf = true →
    (transferFits s 2 → ∃ t, exec (.ldB x) s = .next t ∧
      (t.mem.read s.i.toNat).toNat = (s.readV x).toNat / 100 ∧
      (t.mem.read (s.i.toNat + 1)).toNat = (s.readV x).toNat / 10 % 10 ∧
      (t.mem.read (s.i.toNat + 2)).toNat = (s.readV x).toNat % 10 ∧
      (∀ a, ¬ (s.i.toNat ≤ a ∧ a ≤ s.i.toNat + 2) → t.mem.read a = s.mem.read a) ∧
      t.pc = s.pc + 2 ∧ SameBut [.mem, .pc] s t) ∧
    (¬ transferFits s 2 → EndsIn (.ldB x) s (.memoryOutOfBounds (firstOutside s)))

/-- R117: V0..Vx at I on, nothing else written, I unchanged; past 0xFFF the first address outside faults. -/
def Obligations.BlockStore : Prop :=
  ∀ (s : State) (x : Nibble), s.mem.wf = true →
    (transferFits s x.toNat → ∃ t, exec (.storeRegs x) s = .next t ∧
      (∀ z : Nibble, z.toNat ≤ x.toNat → t.mem.read (s.i.toNat + z.toNat) = s.readV z) ∧
      (∀ a, ¬ (s.i.toNat ≤ a ∧ a ≤ s.i.toNat + x.toNat) → t.mem.read a = s.mem.read a) ∧
      t.pc = s.pc + 2 ∧ SameBut [.mem, .pc] s t) ∧
    (¬ transferFits s x.toNat → EndsIn (.storeRegs x) s (.memoryOutOfBounds (firstOutside s)))

/-- R118: memory at I on to V0..Vx, registers above Vx and I unchanged; past 0xFFF the first address outside
faults. -/
def Obligations.BlockLoad : Prop :=
  ∀ (s : State) (x : Nibble),
    (transferFits s x.toNat → ∃ t, exec (.loadRegs x) s = .next t ∧
      (∀ z : Nibble, z.toNat ≤ x.toNat → t.readV z = s.mem.read (s.i.toNat + z.toNat)) ∧
      (∀ z : Nibble, x.toNat < z.toNat → t.readV z = s.readV z) ∧
      t.pc = s.pc + 2 ∧ SameBut [.v, .pc] s t) ∧
    (¬ transferFits s x.toNat → EndsIn (.loadRegs x) s (.memoryOutOfBounds (firstOutside s)))

/-! Memory and whole-machine rules. -/

/-- Canonical memories that read the same everywhere are the same data. -/
def Obligations.CanonicalMemoriesEqual : Prop :=
  ∀ m n : Memory, m.wf = true → n.wf = true → (∀ a, a ≤ 0xFFF → m.read a = n.read a) → m = n

/-- R46, R144: a block store onto the next instruction is what the next fetch sees, the first stored byte
being the high byte. -/
def Obligations.StoreIsSeenByNextFetch : Prop :=
  ∀ (s t : State) (x : Nibble), s.mem.wf = true → s.fault = none → exec (.storeRegs x) s = .next t →
    t.fault = none → 1 ≤ x.toNat → s.i = s.pc + 2 →
    ∃ op, t.fetch = .ok op ∧ highByte op = s.readV 0 ∧ lowByte op = s.readV 1

/-- R147: a cycle at a jump to its own address changes nothing but DT and ST, which count down (and the
model's record of the cycle's result, log entry 6). -/
def Obligations.SelfLoopOnlyTicks : Prop :=
  ∀ s : State, s.fault = none → s.fetch = .ok (0x1000 ||| s.pc) →
    ∃ t, step s = .next t ∧ t.dt.toNat = s.dt.toNat - 1 ∧ t.st.toNat = s.st.toNat - 1 ∧
      SameBut [.dt, .st, .out] s t

/-- R22, R7: no cycle changes a key or a parameter, faulting or not. -/
def Obligations.CycleLeavesKeysAndParameters : Prop :=
  ∀ s t : State, step s = .next t → (∀ k, t.pressed k = s.pressed k) ∧ t.params = s.params

/-- R24: no cycle that completes clears REDRAW. -/
def Obligations.CompletedCycleKeepsRedraw : Prop :=
  ∀ s t : State, step s = .next t → t.fault = none → s.redraw = true → t.redraw = true

/-! The caller's operations. -/

/-- R136: a program of at most 0xE00 bytes is copied to 0x200 on and changes nothing else; a longer one is
rejected. -/
def Obligations.LoadCopiesProgram : Prop :=
  ∀ (s : State) (bytes : List Byte), s.mem.wf = true →
    (bytes.length ≤ 0xE00 → ∃ t, s.load bytes = .ok t ∧
      (∀ (j : Nat) (h : j < bytes.length), t.mem.read (0x200 + j) = bytes[j]) ∧
      (∀ a, ¬ (0x200 ≤ a ∧ a < 0x200 + bytes.length) → t.mem.read a = s.mem.read a) ∧
      SameBut [.mem] s t) ∧
    (0xE00 < bytes.length → s.load bytes = .error .loadTooLarge)

/-- R133: setting a key 0 to 15 sets that key alone; any other index changes nothing. -/
def Obligations.SetKeySetsOneKey : Prop :=
  ∀ (s : State) (k : Nat) (b : Bool),
    (∀ j : Nibble, (s.setKey k b).pressed j = if j.toNat = k then b else s.pressed j) ∧
    SameBut [.key] s (s.setKey k b) ∧ (15 < k → s.setKey k b = s)

/-- R134: `read_fb()` gives cell y*64 + x as FB[x, y]; `clear_redraw()` clears REDRAW alone. -/
def Obligations.DisplayReads : Prop :=
  ∀ s : State,
    (∀ (x y : Nat) (h : y * 64 + x < 2048), x < 64 → s.readFb[y * 64 + x] = s.fb.pixel x y) ∧
    s.clearRedraw.redraw = false ∧ SameBut [.redraw] s s.clearRedraw
end

