-- ==== Sys2Proof/Laws/Decode.lean ====
section
/-! SUPPORT. The fields of the words the three formats build (30_encoding R49, R50), and the bytes of a
word (R37). -/

namespace Sys2Proof

@[simp] theorem fieldC_formatA (c : Nibble) (nnn : Addr12) : fieldC (formatA c nnn) = c := by
  ext i hi
  interval_cases i <;> simp [fieldC, formatA]

@[simp] theorem fieldNNN_formatA (c : Nibble) (nnn : Addr12) : fieldNNN (formatA c nnn) = nnn := by
  ext i hi
  interval_cases i <;> simp [fieldNNN, formatA]

@[simp] theorem fieldC_formatXNN (c x : Nibble) (nn : Byte) : fieldC (formatXNN c x nn) = c := by
  ext i hi
  interval_cases i <;> simp [fieldC, formatXNN]

@[simp] theorem fieldX_formatXNN (c x : Nibble) (nn : Byte) : fieldX (formatXNN c x nn) = x := by
  ext i hi
  interval_cases i <;> simp [fieldX, formatXNN]

@[simp] theorem fieldNN_formatXNN (c x : Nibble) (nn : Byte) : fieldNN (formatXNN c x nn) = nn := by
  ext i hi
  interval_cases i <;> simp [fieldNN, formatXNN]

@[simp] theorem fieldC_formatXYN (c x y n : Nibble) : fieldC (formatXYN c x y n) = c := by
  ext i hi
  interval_cases i <;> simp [fieldC, formatXYN]

@[simp] theorem fieldX_formatXYN (c x y n : Nibble) : fieldX (formatXYN c x y n) = x := by
  ext i hi
  interval_cases i <;> simp [fieldX, formatXYN]

@[simp] theorem fieldY_formatXYN (c x y n : Nibble) : fieldY (formatXYN c x y n) = y := by
  ext i hi
  interval_cases i <;> simp [fieldY, formatXYN]

@[simp] theorem fieldN_formatXYN (c x y n : Nibble) : fieldN (formatXYN c x y n) = n := by
  ext i hi
  interval_cases i <;> simp [fieldN, formatXYN]

/-- A word is the word of its two bytes in memory order (R37). -/
@[simp] theorem wordOfBytes_high_low (w : Word) : wordOfBytes (highByte w) (lowByte w) = w := by
  ext i hi
  interval_cases i <;> simp [wordOfBytes, highByte, lowByte]

@[simp] theorem highByte_wordOfBytes (hi lo : Byte) : highByte (wordOfBytes hi lo) = hi := by
  ext i h
  interval_cases i <;> simp [wordOfBytes, highByte]

@[simp] theorem lowByte_wordOfBytes (hi lo : Byte) : lowByte (wordOfBytes hi lo) = lo := by
  ext i h
  interval_cases i <;> simp [wordOfBytes, lowByte]

end Sys2Proof
end

