-- ==== Sys2Proof/Laws/Memory.lean ====
section
/-! SUPPORT. Memory: a read after a write, and that every memory operation keeps the canonical form. -/

namespace Sys2Proof.Machine

theorem Memory.wfFrom_mono {lo lo' : Nat} (h : lo' ≤ lo) :
    ∀ {m : Memory}, Memory.wfFrom lo m = true → Memory.wfFrom lo' m = true
  | [], _ => rfl
  | (c, d) :: rest, hm => by
    simp only [Memory.wfFrom, Bool.and_eq_true, decide_eq_true_eq] at hm ⊢
    exact ⟨⟨⟨by omega, hm.1.1.2⟩, hm.1.2⟩, hm.2⟩

/-- An address below every listed one reads as unlisted. -/
theorem Memory.read_below {lo a : Nat} (h : a < lo) :
    ∀ {m : Memory}, Memory.wfFrom lo m = true → m.read a = Memory.background a
  | [], _ => rfl
  | (c, d) :: rest, hm => by
    simp only [Memory.wfFrom, Bool.and_eq_true, decide_eq_true_eq] at hm
    have hne : a ≠ c := by omega
    simp only [Memory.read, hne, if_false]
    exact Memory.read_below (by omega) hm.2

/-- A byte written is the byte read; every other address reads as before. -/
theorem Memory.read_write {lo : Nat} {m : Memory} (hm : Memory.wfFrom lo m = true) (a : Nat) (b : Byte)
    (c : Nat) : (m.write a b).read c = if c = a then b else m.read c := by
  induction m generalizing lo with
  | nil =>
    by_cases hb : b = Memory.background a <;> by_cases hc : c = a <;>
      simp [Memory.write, Memory.read, hb, hc]
  | cons cell rest ih =>
    obtain ⟨k, d⟩ := cell
    simp only [Memory.wfFrom, Bool.and_eq_true, decide_eq_true_eq] at hm
    have hrest := ih hm.2
    have below : ∀ e, e < k + 1 → Memory.read rest e = Memory.background e :=
      fun e he => Memory.read_below he hm.2
    rcases Nat.lt_trichotomy a k with hlt | heq | hgt
    · have hk : a ≠ k := by omega
      by_cases hb : b = Memory.background a <;> by_cases hc : c = a <;>
        simp_all [Memory.write, Memory.read]
      exact below a (by omega)
    · subst heq
      by_cases hb : b = Memory.background a <;> by_cases hc : c = a <;>
        simp_all [Memory.write, Memory.read]
    · have h1 : ¬ a < k := by omega
      have h2 : a ≠ k := by omega
      by_cases hc : c = k
      · subst hc
        simp [Memory.write, h1, h2, Memory.read, Ne.symm h2]
      · simp only [Memory.write, h1, h2, if_false, Memory.read, hc]
        exact hrest

/-- A write leaves every other address alone, canonical form or not. -/
theorem Memory.read_write_ne (m : Memory) {a c : Nat} (b : Byte) (h : c ≠ a) :
    (m.write a b).read c = m.read c := by
  induction m with
  | nil => by_cases hb : b = Memory.background a <;> simp [Memory.write, Memory.read, hb, h]
  | cons cell rest ih =>
    obtain ⟨k, d⟩ := cell
    rcases Nat.lt_trichotomy a k with hlt | heq | hgt
    · by_cases hb : b = Memory.background a <;> simp [Memory.write, hlt, hb, Memory.read, h]
    · subst heq
      by_cases hb : b = Memory.background a <;> simp [Memory.write, hb, Memory.read, h]
    · have h1 : ¬ a < k := by omega
      have h2 : a ≠ k := by omega
      simp [Memory.write, h1, h2, Memory.read, ih]

/-- Writing a list leaves every address outside it alone, canonical form or not. -/
theorem Memory.read_writeList_outside (m : Memory) {a c : Nat} (bs : List Byte)
    (h : ¬ (a ≤ c ∧ c < a + bs.length)) : (m.writeList a bs).read c = m.read c := by
  induction bs generalizing m a with
  | nil => rfl
  | cons b bs ih =>
    simp only [List.length_cons] at h
    by_cases hc : c = a
    · omega
    · rw [Memory.writeList, ih _ (by omega), Memory.read_write_ne _ _ hc]

theorem Memory.wfFrom_write {lo : Nat} {m : Memory} (hm : Memory.wfFrom lo m = true) {a : Nat} (b : Byte)
    (hlo : lo ≤ a) (ha : a < memorySize) : Memory.wfFrom lo (m.write a b) = true := by
  induction m generalizing lo with
  | nil =>
    by_cases hb : b = Memory.background a
    · simp [Memory.write, hb, Memory.wfFrom]
    · simp [Memory.write, hb, Memory.wfFrom, hlo, ha]
  | cons cell rest ih =>
    obtain ⟨k, d⟩ := cell
    have hm' := hm
    simp only [Memory.wfFrom, Bool.and_eq_true, decide_eq_true_eq] at hm
    obtain ⟨⟨⟨hk, hks⟩, hd⟩, hrest⟩ := hm
    rcases Nat.lt_trichotomy a k with hlt | heq | hgt
    · by_cases hb : b = Memory.background a
      · simpa [Memory.write, hlt, hb] using hm'
      · have hka : a + 1 ≤ k := hlt
        simp [Memory.write, hlt, hb, Memory.wfFrom, hlo, ha, hka, hks, hd, hrest]
    · subst heq
      by_cases hb : b = Memory.background a
      · simpa [Memory.write, hb] using Memory.wfFrom_mono (by omega) hrest
      · simp [Memory.write, hb, Memory.wfFrom, hlo, ha, hrest]
    · have h1 : ¬ a < k := by omega
      have h2 : a ≠ k := by omega
      simp only [Memory.write, h1, h2, if_false, Memory.wfFrom, Bool.and_eq_true, decide_eq_true_eq]
      exact ⟨⟨⟨hk, hks⟩, hd⟩, ih hrest (by omega)⟩

/-- A write inside the address space keeps the canonical form. -/
theorem Memory.wf_write {m : Memory} (hm : m.wf = true) {a : Nat} (b : Byte) (ha : a < memorySize) :
    (m.write a b).wf = true := Memory.wfFrom_write hm b (Nat.zero_le a) ha

theorem Memory.wf_writeList {m : Memory} (hm : m.wf = true) :
    ∀ {a : Nat} {bs : List Byte}, a + bs.length ≤ memorySize → (m.writeList a bs).wf = true
  | _, [], _ => hm
  | a, b :: bs, h => by
    simp only [List.length_cons] at h
    exact Memory.wf_writeList (m := m.write a b) (Memory.wf_write hm b (by omega)) (by omega)

/-- After writing a list, its addresses hold its bytes and the others are unchanged. -/
theorem Memory.read_writeList {m : Memory} (hm : m.wf = true) {a : Nat} {bs : List Byte}
    (h : a + bs.length ≤ memorySize) (c : Nat) :
    (m.writeList a bs).read c =
      if hc : a ≤ c ∧ c - a < bs.length then bs[c - a]'hc.2 else m.read c := by
  induction bs generalizing m a with
  | nil => simp [Memory.writeList]
  | cons b bs ih =>
    simp only [List.length_cons] at h
    rw [Memory.writeList, ih (Memory.wf_write hm b (by omega)) (by omega), Memory.read_write hm]
    by_cases h1 : a = c
    · subst h1; simp
    · by_cases h2 : a + 1 ≤ c
      · obtain ⟨k, rfl⟩ : ∃ k, c = a + 1 + k := ⟨c - (a + 1), by omega⟩
        have e1 : a + 1 + k - (a + 1) = k := by omega
        have e2 : a + 1 + k - a = k + 1 := by omega
        have h3 : a ≤ a + 1 + k := by omega
        have h4 : a + 1 + k ≠ a := by omega
        simp only [e1, e2, h3, h4, true_and, if_false, List.length_cons, List.getElem_cons_succ,
          Nat.add_lt_add_iff_right, Nat.le_add_right]
      · have h3 : ¬ a ≤ c := by omega
        have h4 : c ≠ a := by omega
        simp [h2, h3, h4]

theorem Memory.wfFrom_ofBytesFrom (f : Nat → Byte) :
    ∀ {k a : Nat}, a + k ≤ memorySize → Memory.wfFrom a (Memory.ofBytesFrom f k a) = true
  | 0, _, _ => rfl
  | k + 1, a, h => by
    have hrest := Memory.wfFrom_ofBytesFrom f (k := k) (a := a + 1) (by omega)
    by_cases hb : f a = Memory.background a
    · simpa [Memory.ofBytesFrom, hb] using Memory.wfFrom_mono (by omega) hrest
    · have ha : a < memorySize := by omega
      simp [Memory.ofBytesFrom, hb, Memory.wfFrom, ha, hrest]

/-- The memory of given bytes is canonical. -/
theorem Memory.wf_ofBytes (f : Nat → Byte) : (Memory.ofBytes f).wf = true :=
  Memory.wfFrom_ofBytesFrom f (by simp)

/-- Reset memory is canonical. -/
theorem Memory.wf_nil : Memory.wf [] = true := rfl

end Sys2Proof.Machine
end

