-- ==== Sys2Proof/Laws/State.lean ====
section
/-! SUPPORT. One lemma per field per update of the state, so that no proof unfolds a record update. -/

namespace Sys2Proof.Machine

variable (s : State)

@[simp] theorem setMem_mem (m : Memory) : (s.setMem m).mem = m := rfl
@[simp] theorem setMem_v (m : Memory) : (s.setMem m).v = s.v := rfl
@[simp] theorem setMem_i (m : Memory) : (s.setMem m).i = s.i := rfl
@[simp] theorem setMem_pc (m : Memory) : (s.setMem m).pc = s.pc := rfl
@[simp] theorem setMem_stack (m : Memory) : (s.setMem m).stack = s.stack := rfl
@[simp] theorem setMem_dt (m : Memory) : (s.setMem m).dt = s.dt := rfl
@[simp] theorem setMem_st (m : Memory) : (s.setMem m).st = s.st := rfl
@[simp] theorem setMem_key (m : Memory) : (s.setMem m).key = s.key := rfl
@[simp] theorem setMem_fb (m : Memory) : (s.setMem m).fb = s.fb := rfl
@[simp] theorem setMem_redraw (m : Memory) : (s.setMem m).redraw = s.redraw := rfl
@[simp] theorem setMem_fault (m : Memory) : (s.setMem m).fault = s.fault := rfl
@[simp] theorem setMem_out (m : Memory) : (s.setMem m).out = s.out := rfl
@[simp] theorem setMem_params (m : Memory) : (s.setMem m).params = s.params := rfl
@[simp] theorem setMem_freeCount (m : Memory) : (s.setMem m).freeCount = s.freeCount := rfl

@[simp] theorem setV_mem (v : Vector Byte 16) : (s.setV v).mem = s.mem := rfl
@[simp] theorem setV_v (v : Vector Byte 16) : (s.setV v).v = v := rfl
@[simp] theorem setV_i (v : Vector Byte 16) : (s.setV v).i = s.i := rfl
@[simp] theorem setV_pc (v : Vector Byte 16) : (s.setV v).pc = s.pc := rfl
@[simp] theorem setV_stack (v : Vector Byte 16) : (s.setV v).stack = s.stack := rfl
@[simp] theorem setV_dt (v : Vector Byte 16) : (s.setV v).dt = s.dt := rfl
@[simp] theorem setV_st (v : Vector Byte 16) : (s.setV v).st = s.st := rfl
@[simp] theorem setV_key (v : Vector Byte 16) : (s.setV v).key = s.key := rfl
@[simp] theorem setV_fb (v : Vector Byte 16) : (s.setV v).fb = s.fb := rfl
@[simp] theorem setV_redraw (v : Vector Byte 16) : (s.setV v).redraw = s.redraw := rfl
@[simp] theorem setV_fault (v : Vector Byte 16) : (s.setV v).fault = s.fault := rfl
@[simp] theorem setV_out (v : Vector Byte 16) : (s.setV v).out = s.out := rfl
@[simp] theorem setV_params (v : Vector Byte 16) : (s.setV v).params = s.params := rfl
@[simp] theorem setV_freeCount (v : Vector Byte 16) : (s.setV v).freeCount = s.freeCount := rfl

@[simp] theorem setI_mem (w : Word) : (s.setI w).mem = s.mem := rfl
@[simp] theorem setI_v (w : Word) : (s.setI w).v = s.v := rfl
@[simp] theorem setI_i (w : Word) : (s.setI w).i = w := rfl
@[simp] theorem setI_pc (w : Word) : (s.setI w).pc = s.pc := rfl
@[simp] theorem setI_stack (w : Word) : (s.setI w).stack = s.stack := rfl
@[simp] theorem setI_dt (w : Word) : (s.setI w).dt = s.dt := rfl
@[simp] theorem setI_st (w : Word) : (s.setI w).st = s.st := rfl
@[simp] theorem setI_key (w : Word) : (s.setI w).key = s.key := rfl
@[simp] theorem setI_fb (w : Word) : (s.setI w).fb = s.fb := rfl
@[simp] theorem setI_redraw (w : Word) : (s.setI w).redraw = s.redraw := rfl
@[simp] theorem setI_fault (w : Word) : (s.setI w).fault = s.fault := rfl
@[simp] theorem setI_out (w : Word) : (s.setI w).out = s.out := rfl
@[simp] theorem setI_params (w : Word) : (s.setI w).params = s.params := rfl
@[simp] theorem setI_freeCount (w : Word) : (s.setI w).freeCount = s.freeCount := rfl

@[simp] theorem setPc_mem (w : Word) : (s.setPc w).mem = s.mem := rfl
@[simp] theorem setPc_v (w : Word) : (s.setPc w).v = s.v := rfl
@[simp] theorem setPc_i (w : Word) : (s.setPc w).i = s.i := rfl
@[simp] theorem setPc_pc (w : Word) : (s.setPc w).pc = w := rfl
@[simp] theorem setPc_stack (w : Word) : (s.setPc w).stack = s.stack := rfl
@[simp] theorem setPc_dt (w : Word) : (s.setPc w).dt = s.dt := rfl
@[simp] theorem setPc_st (w : Word) : (s.setPc w).st = s.st := rfl
@[simp] theorem setPc_key (w : Word) : (s.setPc w).key = s.key := rfl
@[simp] theorem setPc_fb (w : Word) : (s.setPc w).fb = s.fb := rfl
@[simp] theorem setPc_redraw (w : Word) : (s.setPc w).redraw = s.redraw := rfl
@[simp] theorem setPc_fault (w : Word) : (s.setPc w).fault = s.fault := rfl
@[simp] theorem setPc_out (w : Word) : (s.setPc w).out = s.out := rfl
@[simp] theorem setPc_params (w : Word) : (s.setPc w).params = s.params := rfl
@[simp] theorem setPc_freeCount (w : Word) : (s.setPc w).freeCount = s.freeCount := rfl

@[simp] theorem setStack_mem (l : List Word) : (s.setStack l).mem = s.mem := rfl
@[simp] theorem setStack_v (l : List Word) : (s.setStack l).v = s.v := rfl
@[simp] theorem setStack_i (l : List Word) : (s.setStack l).i = s.i := rfl
@[simp] theorem setStack_pc (l : List Word) : (s.setStack l).pc = s.pc := rfl
@[simp] theorem setStack_stack (l : List Word) : (s.setStack l).stack = l := rfl
@[simp] theorem setStack_dt (l : List Word) : (s.setStack l).dt = s.dt := rfl
@[simp] theorem setStack_st (l : List Word) : (s.setStack l).st = s.st := rfl
@[simp] theorem setStack_key (l : List Word) : (s.setStack l).key = s.key := rfl
@[simp] theorem setStack_fb (l : List Word) : (s.setStack l).fb = s.fb := rfl
@[simp] theorem setStack_redraw (l : List Word) : (s.setStack l).redraw = s.redraw := rfl
@[simp] theorem setStack_fault (l : List Word) : (s.setStack l).fault = s.fault := rfl
@[simp] theorem setStack_out (l : List Word) : (s.setStack l).out = s.out := rfl
@[simp] theorem setStack_params (l : List Word) : (s.setStack l).params = s.params := rfl
@[simp] theorem setStack_freeCount (l : List Word) : (s.setStack l).freeCount = s.freeCount := rfl

@[simp] theorem setDt_mem (b : Byte) : (s.setDt b).mem = s.mem := rfl
@[simp] theorem setDt_v (b : Byte) : (s.setDt b).v = s.v := rfl
@[simp] theorem setDt_i (b : Byte) : (s.setDt b).i = s.i := rfl
@[simp] theorem setDt_pc (b : Byte) : (s.setDt b).pc = s.pc := rfl
@[simp] theorem setDt_stack (b : Byte) : (s.setDt b).stack = s.stack := rfl
@[simp] theorem setDt_dt (b : Byte) : (s.setDt b).dt = b := rfl
@[simp] theorem setDt_st (b : Byte) : (s.setDt b).st = s.st := rfl
@[simp] theorem setDt_key (b : Byte) : (s.setDt b).key = s.key := rfl
@[simp] theorem setDt_fb (b : Byte) : (s.setDt b).fb = s.fb := rfl
@[simp] theorem setDt_redraw (b : Byte) : (s.setDt b).redraw = s.redraw := rfl
@[simp] theorem setDt_fault (b : Byte) : (s.setDt b).fault = s.fault := rfl
@[simp] theorem setDt_out (b : Byte) : (s.setDt b).out = s.out := rfl
@[simp] theorem setDt_params (b : Byte) : (s.setDt b).params = s.params := rfl
@[simp] theorem setDt_freeCount (b : Byte) : (s.setDt b).freeCount = s.freeCount := rfl

@[simp] theorem setSt_mem (b : Byte) : (s.setSt b).mem = s.mem := rfl
@[simp] theorem setSt_v (b : Byte) : (s.setSt b).v = s.v := rfl
@[simp] theorem setSt_i (b : Byte) : (s.setSt b).i = s.i := rfl
@[simp] theorem setSt_pc (b : Byte) : (s.setSt b).pc = s.pc := rfl
@[simp] theorem setSt_stack (b : Byte) : (s.setSt b).stack = s.stack := rfl
@[simp] theorem setSt_dt (b : Byte) : (s.setSt b).dt = s.dt := rfl
@[simp] theorem setSt_st (b : Byte) : (s.setSt b).st = b := rfl
@[simp] theorem setSt_key (b : Byte) : (s.setSt b).key = s.key := rfl
@[simp] theorem setSt_fb (b : Byte) : (s.setSt b).fb = s.fb := rfl
@[simp] theorem setSt_redraw (b : Byte) : (s.setSt b).redraw = s.redraw := rfl
@[simp] theorem setSt_fault (b : Byte) : (s.setSt b).fault = s.fault := rfl
@[simp] theorem setSt_out (b : Byte) : (s.setSt b).out = s.out := rfl
@[simp] theorem setSt_params (b : Byte) : (s.setSt b).params = s.params := rfl
@[simp] theorem setSt_freeCount (b : Byte) : (s.setSt b).freeCount = s.freeCount := rfl

@[simp] theorem setKeys_mem (k : Vector Bool 16) : (s.setKeys k).mem = s.mem := rfl
@[simp] theorem setKeys_v (k : Vector Bool 16) : (s.setKeys k).v = s.v := rfl
@[simp] theorem setKeys_i (k : Vector Bool 16) : (s.setKeys k).i = s.i := rfl
@[simp] theorem setKeys_pc (k : Vector Bool 16) : (s.setKeys k).pc = s.pc := rfl
@[simp] theorem setKeys_stack (k : Vector Bool 16) : (s.setKeys k).stack = s.stack := rfl
@[simp] theorem setKeys_dt (k : Vector Bool 16) : (s.setKeys k).dt = s.dt := rfl
@[simp] theorem setKeys_st (k : Vector Bool 16) : (s.setKeys k).st = s.st := rfl
@[simp] theorem setKeys_key (k : Vector Bool 16) : (s.setKeys k).key = k := rfl
@[simp] theorem setKeys_fb (k : Vector Bool 16) : (s.setKeys k).fb = s.fb := rfl
@[simp] theorem setKeys_redraw (k : Vector Bool 16) : (s.setKeys k).redraw = s.redraw := rfl
@[simp] theorem setKeys_fault (k : Vector Bool 16) : (s.setKeys k).fault = s.fault := rfl
@[simp] theorem setKeys_out (k : Vector Bool 16) : (s.setKeys k).out = s.out := rfl
@[simp] theorem setKeys_params (k : Vector Bool 16) : (s.setKeys k).params = s.params := rfl
@[simp] theorem setKeys_freeCount (k : Vector Bool 16) : (s.setKeys k).freeCount = s.freeCount := rfl

@[simp] theorem setFb_mem (f : Frame) : (s.setFb f).mem = s.mem := rfl
@[simp] theorem setFb_v (f : Frame) : (s.setFb f).v = s.v := rfl
@[simp] theorem setFb_i (f : Frame) : (s.setFb f).i = s.i := rfl
@[simp] theorem setFb_pc (f : Frame) : (s.setFb f).pc = s.pc := rfl
@[simp] theorem setFb_stack (f : Frame) : (s.setFb f).stack = s.stack := rfl
@[simp] theorem setFb_dt (f : Frame) : (s.setFb f).dt = s.dt := rfl
@[simp] theorem setFb_st (f : Frame) : (s.setFb f).st = s.st := rfl
@[simp] theorem setFb_key (f : Frame) : (s.setFb f).key = s.key := rfl
@[simp] theorem setFb_fb (f : Frame) : (s.setFb f).fb = f := rfl
@[simp] theorem setFb_redraw (f : Frame) : (s.setFb f).redraw = s.redraw := rfl
@[simp] theorem setFb_fault (f : Frame) : (s.setFb f).fault = s.fault := rfl
@[simp] theorem setFb_out (f : Frame) : (s.setFb f).out = s.out := rfl
@[simp] theorem setFb_params (f : Frame) : (s.setFb f).params = s.params := rfl
@[simp] theorem setFb_freeCount (f : Frame) : (s.setFb f).freeCount = s.freeCount := rfl

@[simp] theorem setRedraw_mem (b : Bool) : (s.setRedraw b).mem = s.mem := rfl
@[simp] theorem setRedraw_v (b : Bool) : (s.setRedraw b).v = s.v := rfl
@[simp] theorem setRedraw_i (b : Bool) : (s.setRedraw b).i = s.i := rfl
@[simp] theorem setRedraw_pc (b : Bool) : (s.setRedraw b).pc = s.pc := rfl
@[simp] theorem setRedraw_stack (b : Bool) : (s.setRedraw b).stack = s.stack := rfl
@[simp] theorem setRedraw_dt (b : Bool) : (s.setRedraw b).dt = s.dt := rfl
@[simp] theorem setRedraw_st (b : Bool) : (s.setRedraw b).st = s.st := rfl
@[simp] theorem setRedraw_key (b : Bool) : (s.setRedraw b).key = s.key := rfl
@[simp] theorem setRedraw_fb (b : Bool) : (s.setRedraw b).fb = s.fb := rfl
@[simp] theorem setRedraw_redraw (b : Bool) : (s.setRedraw b).redraw = b := rfl
@[simp] theorem setRedraw_fault (b : Bool) : (s.setRedraw b).fault = s.fault := rfl
@[simp] theorem setRedraw_out (b : Bool) : (s.setRedraw b).out = s.out := rfl
@[simp] theorem setRedraw_params (b : Bool) : (s.setRedraw b).params = s.params := rfl
@[simp] theorem setRedraw_freeCount (b : Bool) : (s.setRedraw b).freeCount = s.freeCount := rfl

@[simp] theorem setFault_mem (f : Option Fault) : (s.setFault f).mem = s.mem := rfl
@[simp] theorem setFault_v (f : Option Fault) : (s.setFault f).v = s.v := rfl
@[simp] theorem setFault_i (f : Option Fault) : (s.setFault f).i = s.i := rfl
@[simp] theorem setFault_pc (f : Option Fault) : (s.setFault f).pc = s.pc := rfl
@[simp] theorem setFault_stack (f : Option Fault) : (s.setFault f).stack = s.stack := rfl
@[simp] theorem setFault_dt (f : Option Fault) : (s.setFault f).dt = s.dt := rfl
@[simp] theorem setFault_st (f : Option Fault) : (s.setFault f).st = s.st := rfl
@[simp] theorem setFault_key (f : Option Fault) : (s.setFault f).key = s.key := rfl
@[simp] theorem setFault_fb (f : Option Fault) : (s.setFault f).fb = s.fb := rfl
@[simp] theorem setFault_redraw (f : Option Fault) : (s.setFault f).redraw = s.redraw := rfl
@[simp] theorem setFault_fault (f : Option Fault) : (s.setFault f).fault = f := rfl
@[simp] theorem setFault_out (f : Option Fault) : (s.setFault f).out = s.out := rfl
@[simp] theorem setFault_params (f : Option Fault) : (s.setFault f).params = s.params := rfl
@[simp] theorem setFault_freeCount (f : Option Fault) : (s.setFault f).freeCount = s.freeCount := rfl

@[simp] theorem setOut_mem (r : Option CycleResult) : (s.setOut r).mem = s.mem := rfl
@[simp] theorem setOut_v (r : Option CycleResult) : (s.setOut r).v = s.v := rfl
@[simp] theorem setOut_i (r : Option CycleResult) : (s.setOut r).i = s.i := rfl
@[simp] theorem setOut_pc (r : Option CycleResult) : (s.setOut r).pc = s.pc := rfl
@[simp] theorem setOut_stack (r : Option CycleResult) : (s.setOut r).stack = s.stack := rfl
@[simp] theorem setOut_dt (r : Option CycleResult) : (s.setOut r).dt = s.dt := rfl
@[simp] theorem setOut_st (r : Option CycleResult) : (s.setOut r).st = s.st := rfl
@[simp] theorem setOut_key (r : Option CycleResult) : (s.setOut r).key = s.key := rfl
@[simp] theorem setOut_fb (r : Option CycleResult) : (s.setOut r).fb = s.fb := rfl
@[simp] theorem setOut_redraw (r : Option CycleResult) : (s.setOut r).redraw = s.redraw := rfl
@[simp] theorem setOut_fault (r : Option CycleResult) : (s.setOut r).fault = s.fault := rfl
@[simp] theorem setOut_out (r : Option CycleResult) : (s.setOut r).out = r := rfl
@[simp] theorem setOut_params (r : Option CycleResult) : (s.setOut r).params = s.params := rfl
@[simp] theorem setOut_freeCount (r : Option CycleResult) : (s.setOut r).freeCount = s.freeCount := rfl

@[simp] theorem setFreeCount_mem (n : Nat) : (s.setFreeCount n).mem = s.mem := rfl
@[simp] theorem setFreeCount_v (n : Nat) : (s.setFreeCount n).v = s.v := rfl
@[simp] theorem setFreeCount_i (n : Nat) : (s.setFreeCount n).i = s.i := rfl
@[simp] theorem setFreeCount_pc (n : Nat) : (s.setFreeCount n).pc = s.pc := rfl
@[simp] theorem setFreeCount_stack (n : Nat) : (s.setFreeCount n).stack = s.stack := rfl
@[simp] theorem setFreeCount_dt (n : Nat) : (s.setFreeCount n).dt = s.dt := rfl
@[simp] theorem setFreeCount_st (n : Nat) : (s.setFreeCount n).st = s.st := rfl
@[simp] theorem setFreeCount_key (n : Nat) : (s.setFreeCount n).key = s.key := rfl
@[simp] theorem setFreeCount_fb (n : Nat) : (s.setFreeCount n).fb = s.fb := rfl
@[simp] theorem setFreeCount_redraw (n : Nat) : (s.setFreeCount n).redraw = s.redraw := rfl
@[simp] theorem setFreeCount_fault (n : Nat) : (s.setFreeCount n).fault = s.fault := rfl
@[simp] theorem setFreeCount_out (n : Nat) : (s.setFreeCount n).out = s.out := rfl
@[simp] theorem setFreeCount_params (n : Nat) : (s.setFreeCount n).params = s.params := rfl
@[simp] theorem setFreeCount_freeCount (n : Nat) : (s.setFreeCount n).freeCount = n := rfl

@[simp] theorem writeV_mem (x : Nibble) (b : Byte) : (s.writeV x b).mem = s.mem := rfl
@[simp] theorem writeV_i (x : Nibble) (b : Byte) : (s.writeV x b).i = s.i := rfl
@[simp] theorem writeV_pc (x : Nibble) (b : Byte) : (s.writeV x b).pc = s.pc := rfl
@[simp] theorem writeV_stack (x : Nibble) (b : Byte) : (s.writeV x b).stack = s.stack := rfl
@[simp] theorem writeV_dt (x : Nibble) (b : Byte) : (s.writeV x b).dt = s.dt := rfl
@[simp] theorem writeV_st (x : Nibble) (b : Byte) : (s.writeV x b).st = s.st := rfl
@[simp] theorem writeV_key (x : Nibble) (b : Byte) : (s.writeV x b).key = s.key := rfl
@[simp] theorem writeV_fb (x : Nibble) (b : Byte) : (s.writeV x b).fb = s.fb := rfl
@[simp] theorem writeV_redraw (x : Nibble) (b : Byte) : (s.writeV x b).redraw = s.redraw := rfl
@[simp] theorem writeV_fault (x : Nibble) (b : Byte) : (s.writeV x b).fault = s.fault := rfl
@[simp] theorem writeV_out (x : Nibble) (b : Byte) : (s.writeV x b).out = s.out := rfl
@[simp] theorem writeV_params (x : Nibble) (b : Byte) : (s.writeV x b).params = s.params := rfl
@[simp] theorem writeV_freeCount (x : Nibble) (b : Byte) : (s.writeV x b).freeCount = s.freeCount := rfl

@[simp] theorem takeFault_i (f : Fault) : (s.takeFault f).i = s.i := rfl
@[simp] theorem takeFault_pc (f : Fault) : (s.takeFault f).pc = s.pc := rfl
@[simp] theorem takeFault_stack (f : Fault) : (s.takeFault f).stack = s.stack := rfl
@[simp] theorem takeFault_dt (f : Fault) : (s.takeFault f).dt = s.dt := rfl
@[simp] theorem takeFault_st (f : Fault) : (s.takeFault f).st = s.st := rfl
@[simp] theorem takeFault_key (f : Fault) : (s.takeFault f).key = s.key := rfl
@[simp] theorem takeFault_fault (f : Fault) : (s.takeFault f).fault = some f := rfl
@[simp] theorem takeFault_out (f : Fault) : (s.takeFault f).out = some (.err f) := rfl
@[simp] theorem takeFault_params (f : Fault) : (s.takeFault f).params = s.params := rfl
@[simp] theorem takeFault_freeCount (f : Fault) : (s.takeFault f).freeCount = s.freeCount + 1 := rfl
@[simp] theorem takeFault_mem (f : Fault) : (s.takeFault f).mem = Memory.ofBytes (Config.faultMem s.freeCount) := rfl

@[simp] theorem timerTick_mem : s.timerTick.mem = (s.mem) := rfl
@[simp] theorem timerTick_v : s.timerTick.v = (s.v) := rfl
@[simp] theorem timerTick_i : s.timerTick.i = (s.i) := rfl
@[simp] theorem timerTick_pc : s.timerTick.pc = (s.pc) := rfl
@[simp] theorem timerTick_stack : s.timerTick.stack = (s.stack) := rfl
@[simp] theorem timerTick_dt : s.timerTick.dt = (if s.dt = 0 then 0 else s.dt - 1) := rfl
@[simp] theorem timerTick_st : s.timerTick.st = (if s.st = 0 then 0 else s.st - 1) := rfl
@[simp] theorem timerTick_key : s.timerTick.key = (s.key) := rfl
@[simp] theorem timerTick_fb : s.timerTick.fb = (s.fb) := rfl
@[simp] theorem timerTick_redraw : s.timerTick.redraw = (s.redraw) := rfl
@[simp] theorem timerTick_fault : s.timerTick.fault = (s.fault) := rfl
@[simp] theorem timerTick_out : s.timerTick.out = (some (.ok (s.st == 1))) := rfl
@[simp] theorem timerTick_params : s.timerTick.params = (s.params) := rfl
@[simp] theorem timerTick_freeCount : s.timerTick.freeCount = (s.freeCount) := rfl

@[simp] theorem init_mem : s.init.mem = Memory.writeList [] 0 s.params.font.toList := rfl
@[simp] theorem init_v : s.init.v = Vector.replicate 16 0 := rfl
@[simp] theorem init_i : s.init.i = 0x0000 := rfl
@[simp] theorem init_pc : s.init.pc = 0x0200 := rfl
@[simp] theorem init_stack : s.init.stack = [] := rfl
@[simp] theorem init_dt : s.init.dt = 0 := rfl
@[simp] theorem init_st : s.init.st = 0 := rfl
@[simp] theorem init_key : s.init.key = Vector.replicate 16 false := rfl
@[simp] theorem init_fb : s.init.fb = Vector.replicate 32 0 := rfl
@[simp] theorem init_redraw : s.init.redraw = false := rfl
@[simp] theorem init_fault : s.init.fault = none := rfl
@[simp] theorem init_out : s.init.out = none := rfl
@[simp] theorem init_params : s.init.params = s.params := rfl
@[simp] theorem init_freeCount : s.init.freeCount = s.freeCount := rfl

end Sys2Proof.Machine
end

