-- ==== Sys2Proof/Laws/Ops.lean ====
section
/-! SUPPORT. What each shared operation does, once: registers, byte accesses and transfers, fetch, the
end of an instruction and of a cycle. -/

namespace Sys2Proof.Machine

/-! Registers and keys. -/

/-- A register written holds the byte; the others are unchanged. -/
@[simp] theorem readV_writeV (s : State) (x z : Nibble) (b : Byte) :
    (s.writeV x b).readV z = if z = x then b else s.readV z := by
  simp only [State.readV, State.writeV, setV_v]
  by_cases h : z = x
  · subst h; simp
  · have hne : x.toNat ≠ z.toNat := fun e => h (BitVec.eq_of_toNat_eq e.symm)
    rw [Vector.getElem_set_ne _ _ hne]
    simp [h]

@[simp] theorem readV_timerTick (s : State) (z : Nibble) : s.timerTick.readV z = s.readV z := rfl
@[simp] theorem pressed_timerTick (s : State) (k : Nibble) : s.timerTick.pressed k = s.pressed k := rfl
@[simp] theorem pressed_takeFault (s : State) (f : Fault) (k : Nibble) :
    (s.takeFault f).pressed k = s.pressed k := rfl
@[simp] theorem pressed_writeV (s : State) (x : Nibble) (b : Byte) (k : Nibble) :
    (s.writeV x b).pressed k = s.pressed k := rfl
@[simp] theorem readV_setMem (s : State) (m : Memory) (z : Nibble) : (s.setMem m).readV z = s.readV z := rfl
@[simp] theorem pressed_setMem (s : State) (m : Memory) (j : Nibble) : (s.setMem m).pressed j = s.pressed j := rfl
@[simp] theorem readV_setI (s : State) (w : Word) (z : Nibble) : (s.setI w).readV z = s.readV z := rfl
@[simp] theorem pressed_setI (s : State) (w : Word) (j : Nibble) : (s.setI w).pressed j = s.pressed j := rfl
@[simp] theorem readV_setPc (s : State) (w : Word) (z : Nibble) : (s.setPc w).readV z = s.readV z := rfl
@[simp] theorem pressed_setPc (s : State) (w : Word) (j : Nibble) : (s.setPc w).pressed j = s.pressed j := rfl
@[simp] theorem readV_setStack (s : State) (l : List Word) (z : Nibble) : (s.setStack l).readV z = s.readV z := rfl
@[simp] theorem pressed_setStack (s : State) (l : List Word) (j : Nibble) : (s.setStack l).pressed j = s.pressed j := rfl
@[simp] theorem readV_setDt (s : State) (b : Byte) (z : Nibble) : (s.setDt b).readV z = s.readV z := rfl
@[simp] theorem pressed_setDt (s : State) (b : Byte) (j : Nibble) : (s.setDt b).pressed j = s.pressed j := rfl
@[simp] theorem readV_setSt (s : State) (b : Byte) (z : Nibble) : (s.setSt b).readV z = s.readV z := rfl
@[simp] theorem pressed_setSt (s : State) (b : Byte) (j : Nibble) : (s.setSt b).pressed j = s.pressed j := rfl
@[simp] theorem readV_setKeys (s : State) (k : Vector Bool 16) (z : Nibble) : (s.setKeys k).readV z = s.readV z := rfl
@[simp] theorem readV_setFb (s : State) (f : Frame) (z : Nibble) : (s.setFb f).readV z = s.readV z := rfl
@[simp] theorem pressed_setFb (s : State) (f : Frame) (j : Nibble) : (s.setFb f).pressed j = s.pressed j := rfl
@[simp] theorem readV_setRedraw (s : State) (b : Bool) (z : Nibble) : (s.setRedraw b).readV z = s.readV z := rfl
@[simp] theorem pressed_setRedraw (s : State) (b : Bool) (j : Nibble) : (s.setRedraw b).pressed j = s.pressed j := rfl
@[simp] theorem readV_setFault (s : State) (f : Option Fault) (z : Nibble) : (s.setFault f).readV z = s.readV z := rfl
@[simp] theorem pressed_setFault (s : State) (f : Option Fault) (j : Nibble) : (s.setFault f).pressed j = s.pressed j := rfl
@[simp] theorem readV_setOut (s : State) (r : Option CycleResult) (z : Nibble) : (s.setOut r).readV z = s.readV z := rfl
@[simp] theorem pressed_setOut (s : State) (r : Option CycleResult) (j : Nibble) : (s.setOut r).pressed j = s.pressed j := rfl
@[simp] theorem readV_setFreeCount (s : State) (n : Nat) (z : Nibble) : (s.setFreeCount n).readV z = s.readV z := rfl
@[simp] theorem pressed_setFreeCount (s : State) (n : Nat) (j : Nibble) : (s.setFreeCount n).pressed j = s.pressed j := rfl
@[simp] theorem pressed_setV (s : State) (v : Vector Byte 16) (j : Nibble) : (s.setV v).pressed j = s.pressed j := rfl

/-! Byte accesses (R40). -/

theorem memRead_inside {s : State} {a : Nat} (h : a ≤ 0xFFF) : s.memRead a = .ok (s.mem.read a) := by
  have h' : ¬ 0xFFF < a := by omega
  simp [State.memRead, h']

theorem memRead_outside {s : State} {a : Nat} (h : 0xFFF < a) :
    s.memRead a = .error (.memoryOutOfBounds a) := by
  simp [State.memRead, h]

theorem memWrite_inside {s : State} {a : Nat} {b : Byte} (h : a ≤ 0xFFF) :
    s.memWrite a b = .ok (s.setMem (s.mem.write a b)) := by
  have h' : ¬ 0xFFF < a := by omega
  simp [State.memWrite, h']

theorem memWrite_outside {s : State} {a : Nat} {b : Byte} (h : 0xFFF < a) :
    s.memWrite a b = .error (.memoryOutOfBounds a) := by
  simp [State.memWrite, h]

/-- A transfer to memory that stays inside writes every byte. -/
theorem memWriteAll_inside {s : State} {a : Nat} {bs : List Byte} (h : a + bs.length ≤ 0x1000) :
    s.memWriteAll a bs = .ok (s.setMem (s.mem.writeList a bs)) := by
  induction bs generalizing s a with
  | nil => rfl
  | cons b bs ih =>
    simp only [List.length_cons] at h
    rw [State.memWriteAll, memWrite_inside (by omega)]
    exact ih (by omega)

/-- A transfer to memory that runs out reports the first address above 0xFFF. -/
theorem memWriteAll_outside {s : State} {a : Nat} {bs : List Byte} (hne : bs ≠ [])
    (h : 0x1000 < a + bs.length) : s.memWriteAll a bs = .error (.memoryOutOfBounds (max a 0x1000)) := by
  induction bs generalizing s a with
  | nil => exact absurd rfl hne
  | cons b bs ih =>
    simp only [List.length_cons] at h
    by_cases ha : 0xFFF < a
    · have e : max a 0x1000 = a := by omega
      rw [State.memWriteAll, memWrite_outside ha, e]
    · have hbs : bs ≠ [] := by rintro rfl; simp at h; omega
      have e : max a 0x1000 = max (a + 1) 0x1000 := by omega
      rw [State.memWriteAll, memWrite_inside (by omega), e]
      exact ih hbs (by omega)

/-- A transfer from memory that stays inside reads every byte. -/
theorem memReadAll_inside {s : State} {a k : Nat} (h : a + k ≤ 0x1000) :
    s.memReadAll a k = .ok ((List.range' a k).map s.mem.read) := by
  induction k generalizing a with
  | zero => rfl
  | succ k ih =>
    rw [State.memReadAll, memRead_inside (by omega), ih (by omega)]
    rfl

/-- A transfer from memory that runs out reports the first address above 0xFFF. -/
theorem memReadAll_outside {s : State} {a k : Nat} (hk : 0 < k) (h : 0x1000 < a + k) :
    s.memReadAll a k = .error (.memoryOutOfBounds (max a 0x1000)) := by
  induction k generalizing a with
  | zero => omega
  | succ k ih =>
    by_cases ha : 0xFFF < a
    · have e : max a 0x1000 = a := by omega
      rw [State.memReadAll, memRead_outside ha, e]
    · have e : max a 0x1000 = max (a + 1) 0x1000 := by omega
      rw [State.memReadAll, memRead_inside (by omega), ih (by omega) (by omega), e]

/-! Fetch (R37, R41). -/

theorem fetch_inside {s : State} (h : s.pc.toNat + 1 ≤ 0xFFF) :
    s.fetch = .ok (wordOfBytes (s.mem.read s.pc.toNat) (s.mem.read (s.pc.toNat + 1))) := by
  rw [State.fetch, memRead_inside (by omega), memRead_inside h]

theorem fetch_outside {s : State} (h : 0xFFF < s.pc.toNat + 1) :
    s.fetch = .error (.memoryOutOfBounds (max s.pc.toNat 0x1000)) := by
  by_cases hp : 0xFFF < s.pc.toNat
  · have e : max s.pc.toNat 0x1000 = s.pc.toNat := by omega
    rw [State.fetch, memRead_outside hp, e]
  · have e : max s.pc.toNat 0x1000 = s.pc.toNat + 1 := by omega
    rw [State.fetch, memRead_inside (by omega), memRead_outside h, e]

/-! The end of an instruction and of a cycle. -/

@[simp] theorem finish_eq (p : Word) (s : State) : finish p s = .next (s.setPc (p + 2)) := rfl

@[simp] theorem raise_eq (f : Fault) (s : State) : raise f s = .next (s.takeFault f) := rfl

/-- The two PC adjustments cancel (R66, R89). -/
@[simp] theorem jumpPre_add_two (t : Word) : jumpPre t + 2#16 = t := by simp [jumpPre]

@[simp] theorem finishOr_ok (s t : State) : s.finishOr (.ok t) = .next (t.setPc (s.pc + 2)) := rfl

@[simp] theorem finishOr_error (s : State) (f : Fault) : s.finishOr (.error f) = .next (s.takeFault f) := rfl

theorem endCycle_of_fault {s : State} {f : Fault} (h : s.fault = some f) : s.endCycle = s := by
  simp [State.endCycle, h]

theorem endCycle_of_none {s : State} (h : s.fault = none) : s.endCycle = s.timerTick := by
  simp [State.endCycle, h]

/-- Everything a step that answers a next state can be: a fetch that faulted, or an instruction run to
its end and the end of the cycle. -/
theorem step_cases {s t : State} (h : step s = .next t) :
    s.fault = none ∧
      ((∃ f, s.fetch = .error f ∧ t = s.takeFault f) ∨
        ∃ op u, s.fetch = .ok op ∧ exec (decode s.params.skipRegStrict op) s = .next u ∧ t = u.endCycle) := by
  unfold step at h
  cases hf : s.fault with
  | some f => simp [hf] at h
  | none =>
    refine ⟨rfl, ?_⟩
    simp only [hf] at h
    cases hw : s.fetch with
    | error f =>
      simp only [hw, raise_eq] at h
      injection h with h
      exact .inl ⟨f, rfl, h.symm⟩
    | ok op =>
      simp only [hw] at h
      cases he : exec (decode s.params.skipRegStrict op) s with
      | next u =>
        simp only [he] at h
        injection h with h
        exact .inr ⟨op, u, rfl, he, h.symm⟩
      | fault f => simp [he] at h
      | refused r => simp [he] at h

end Sys2Proof.Machine
end

