-- ==== Sys2Proof/Laws/Operands.lean ====
section
/-! SUPPORT. Operand forms, flags and framebuffer cells: what each operation gives. -/

namespace Sys2Proof.Machine

/-! Operands. -/

@[simp] theorem regsUpTo_length (s : State) (x : Nibble) : (s.regsUpTo x).length = x.toNat + 1 := by
  simp [State.regsUpTo]

/-- The k-th byte of a block store is Vk. -/
theorem regsUpTo_getElem (s : State) (x : Nibble) {k : Nat} (h : k < (s.regsUpTo x).length) :
    (s.regsUpTo x)[k] = s.readV (BitVec.ofNat 4 k) := by
  simp [State.regsUpTo]

/-- A block load changes registers only. -/
theorem writeRegs_eq_setV (s : State) (k : Nat) (bs : List Byte) :
    s.writeRegs k bs = s.setV (s.writeRegs k bs).v := by
  induction bs generalizing s k with
  | nil => rfl
  | cons b bs ih => rw [State.writeRegs, ih]; rfl

/-- A block load of registers k, k+1, …: those hold the bytes, the others are unchanged. -/
theorem readV_writeRegs (s : State) (k : Nat) (bs : List Byte) (h : k + bs.length ≤ 16) (z : Nibble) :
    (s.writeRegs k bs).readV z =
      if hz : k ≤ z.toNat ∧ z.toNat - k < bs.length then bs[z.toNat - k]'hz.2 else s.readV z := by
  induction bs generalizing s k with
  | nil => simp [State.writeRegs]
  | cons b bs ih =>
    simp only [List.length_cons] at h
    rw [State.writeRegs, ih _ _ (by omega), readV_writeV]
    have hzk : z = BitVec.ofNat 4 k ↔ z.toNat = k := by
      constructor
      · rintro rfl; simp; omega
      · intro e; apply BitVec.eq_of_toNat_eq; simp; omega
    by_cases h1 : z.toNat = k
    · have h2 : ¬ k + 1 ≤ z.toNat := by omega
      simp [hzk, h1]
    · by_cases h2 : k + 1 ≤ z.toNat
      · obtain ⟨j, hj⟩ : ∃ j, z.toNat = k + 1 + j := ⟨z.toNat - (k + 1), by omega⟩
        have e1 : k + 1 + j - (k + 1) = j := by omega
        have e2 : k + 1 + j - k = j + 1 := by omega
        have h3 : k ≤ k + 1 + j := by omega
        have h4 : ¬ k + 1 + j = k := by omega
        simp only [hzk, h4, hj, e1, e2, h3, if_false, true_and, Nat.le_add_right, Nat.add_lt_add_iff_right,
          List.length_cons, List.getElem_cons_succ]
      · have h3 : ¬ k ≤ z.toNat := by omega
        simp [hzk, h1, h2, h3]

/-- A value up to 15 names that key, whatever the policy (R108). -/
theorem keyIndex_small (p : Config.KeyIndexPolicy) {v : Byte} (h : v.toNat ≤ 15) :
    keyIndex p v = .ok (v.extractLsb' 0 4) := by
  have h' : ¬ 15 < v.toNat := by omega
  simp [keyIndex, h']

theorem keyIndex_large_fault {v : Byte} (h : 15 < v.toNat) :
    keyIndex .fault v = .error (.keyIndexOutOfRange v) := by
  simp [keyIndex, h]

theorem keyIndex_lowNibble (v : Byte) : keyIndex .lowNibble v = .ok (v.extractLsb' 0 4) := by
  by_cases h : 15 < v.toNat <;> simp [keyIndex, h]

/-- No key reported means no key pressed. -/
theorem lowestPressed_none {s : State} : s.lowestPressed = none ↔ ∀ k, s.pressed k = false := by
  simp only [State.lowestPressed, List.find?_eq_none, List.mem_map, List.mem_range]
  constructor
  · intro h k
    simpa using h k ⟨k.toNat, k.isLt, by simp⟩
  · rintro h _ ⟨n, _, rfl⟩
    simp [h]

/-- A key reported is pressed. -/
theorem lowestPressed_some {s : State} {k : Nibble} (h : s.lowestPressed = some k) : s.pressed k = true :=
  List.find?_some h

/-! Flags. -/

/-- Flag first, then result: x keeps the result, VF the flag unless x is F (R75). -/
theorem readV_writeFlagThenResult (s : State) (x z : Nibble) (f r : Byte) :
    (s.writeFlagThenResult x f r).readV z = if z = x then r else if z = vf then f else s.readV z := by
  simp [State.writeFlagThenResult]

/-- The order of `VF_ALIAS_ORDER` shows only when x is F (R75). -/
theorem readV_writeFlagAndResult (s : State) (x z : Nibble) (f r : Byte) :
    (s.writeFlagAndResult x f r).readV z =
      match s.params.vfAliasOrder with
      | .resultLast => if z = x then r else if z = vf then f else s.readV z
      | .flagLast => if z = vf then f else if z = x then r else s.readV z := by
  unfold State.writeFlagAndResult
  cases s.params.vfAliasOrder <;> simp [State.writeFlagThenResult]

/-! The flag and result writes, and a block load, change V alone. -/

@[simp] theorem writeFlagThenResult_mem (s : State) (x : Nibble) (f r : Byte) :
    (s.writeFlagThenResult x f r).mem = s.mem := rfl
@[simp] theorem writeFlagAndResult_mem (s : State) (x : Nibble) (f r : Byte) :
    (s.writeFlagAndResult x f r).mem = s.mem := by
  unfold State.writeFlagAndResult; split <;> rfl
@[simp] theorem writeRegs_mem (s : State) (k : Nat) (bs : List Byte) : (s.writeRegs k bs).mem = s.mem := by
  rw [writeRegs_eq_setV]; rfl
@[simp] theorem writeFlagThenResult_i (s : State) (x : Nibble) (f r : Byte) :
    (s.writeFlagThenResult x f r).i = s.i := rfl
@[simp] theorem writeFlagAndResult_i (s : State) (x : Nibble) (f r : Byte) :
    (s.writeFlagAndResult x f r).i = s.i := by
  unfold State.writeFlagAndResult; split <;> rfl
@[simp] theorem writeRegs_i (s : State) (k : Nat) (bs : List Byte) : (s.writeRegs k bs).i = s.i := by
  rw [writeRegs_eq_setV]; rfl
@[simp] theorem writeFlagThenResult_pc (s : State) (x : Nibble) (f r : Byte) :
    (s.writeFlagThenResult x f r).pc = s.pc := rfl
@[simp] theorem writeFlagAndResult_pc (s : State) (x : Nibble) (f r : Byte) :
    (s.writeFlagAndResult x f r).pc = s.pc := by
  unfold State.writeFlagAndResult; split <;> rfl
@[simp] theorem writeRegs_pc (s : State) (k : Nat) (bs : List Byte) : (s.writeRegs k bs).pc = s.pc := by
  rw [writeRegs_eq_setV]; rfl
@[simp] theorem writeFlagThenResult_stack (s : State) (x : Nibble) (f r : Byte) :
    (s.writeFlagThenResult x f r).stack = s.stack := rfl
@[simp] theorem writeFlagAndResult_stack (s : State) (x : Nibble) (f r : Byte) :
    (s.writeFlagAndResult x f r).stack = s.stack := by
  unfold State.writeFlagAndResult; split <;> rfl
@[simp] theorem writeRegs_stack (s : State) (k : Nat) (bs : List Byte) : (s.writeRegs k bs).stack = s.stack := by
  rw [writeRegs_eq_setV]; rfl
@[simp] theorem writeFlagThenResult_dt (s : State) (x : Nibble) (f r : Byte) :
    (s.writeFlagThenResult x f r).dt = s.dt := rfl
@[simp] theorem writeFlagAndResult_dt (s : State) (x : Nibble) (f r : Byte) :
    (s.writeFlagAndResult x f r).dt = s.dt := by
  unfold State.writeFlagAndResult; split <;> rfl
@[simp] theorem writeRegs_dt (s : State) (k : Nat) (bs : List Byte) : (s.writeRegs k bs).dt = s.dt := by
  rw [writeRegs_eq_setV]; rfl
@[simp] theorem writeFlagThenResult_st (s : State) (x : Nibble) (f r : Byte) :
    (s.writeFlagThenResult x f r).st = s.st := rfl
@[simp] theorem writeFlagAndResult_st (s : State) (x : Nibble) (f r : Byte) :
    (s.writeFlagAndResult x f r).st = s.st := by
  unfold State.writeFlagAndResult; split <;> rfl
@[simp] theorem writeRegs_st (s : State) (k : Nat) (bs : List Byte) : (s.writeRegs k bs).st = s.st := by
  rw [writeRegs_eq_setV]; rfl
@[simp] theorem writeFlagThenResult_key (s : State) (x : Nibble) (f r : Byte) :
    (s.writeFlagThenResult x f r).key = s.key := rfl
@[simp] theorem writeFlagAndResult_key (s : State) (x : Nibble) (f r : Byte) :
    (s.writeFlagAndResult x f r).key = s.key := by
  unfold State.writeFlagAndResult; split <;> rfl
@[simp] theorem writeRegs_key (s : State) (k : Nat) (bs : List Byte) : (s.writeRegs k bs).key = s.key := by
  rw [writeRegs_eq_setV]; rfl
@[simp] theorem writeFlagThenResult_fb (s : State) (x : Nibble) (f r : Byte) :
    (s.writeFlagThenResult x f r).fb = s.fb := rfl
@[simp] theorem writeFlagAndResult_fb (s : State) (x : Nibble) (f r : Byte) :
    (s.writeFlagAndResult x f r).fb = s.fb := by
  unfold State.writeFlagAndResult; split <;> rfl
@[simp] theorem writeRegs_fb (s : State) (k : Nat) (bs : List Byte) : (s.writeRegs k bs).fb = s.fb := by
  rw [writeRegs_eq_setV]; rfl
@[simp] theorem writeFlagThenResult_redraw (s : State) (x : Nibble) (f r : Byte) :
    (s.writeFlagThenResult x f r).redraw = s.redraw := rfl
@[simp] theorem writeFlagAndResult_redraw (s : State) (x : Nibble) (f r : Byte) :
    (s.writeFlagAndResult x f r).redraw = s.redraw := by
  unfold State.writeFlagAndResult; split <;> rfl
@[simp] theorem writeRegs_redraw (s : State) (k : Nat) (bs : List Byte) : (s.writeRegs k bs).redraw = s.redraw := by
  rw [writeRegs_eq_setV]; rfl
@[simp] theorem writeFlagThenResult_fault (s : State) (x : Nibble) (f r : Byte) :
    (s.writeFlagThenResult x f r).fault = s.fault := rfl
@[simp] theorem writeFlagAndResult_fault (s : State) (x : Nibble) (f r : Byte) :
    (s.writeFlagAndResult x f r).fault = s.fault := by
  unfold State.writeFlagAndResult; split <;> rfl
@[simp] theorem writeRegs_fault (s : State) (k : Nat) (bs : List Byte) : (s.writeRegs k bs).fault = s.fault := by
  rw [writeRegs_eq_setV]; rfl
@[simp] theorem writeFlagThenResult_out (s : State) (x : Nibble) (f r : Byte) :
    (s.writeFlagThenResult x f r).out = s.out := rfl
@[simp] theorem writeFlagAndResult_out (s : State) (x : Nibble) (f r : Byte) :
    (s.writeFlagAndResult x f r).out = s.out := by
  unfold State.writeFlagAndResult; split <;> rfl
@[simp] theorem writeRegs_out (s : State) (k : Nat) (bs : List Byte) : (s.writeRegs k bs).out = s.out := by
  rw [writeRegs_eq_setV]; rfl
@[simp] theorem writeFlagThenResult_params (s : State) (x : Nibble) (f r : Byte) :
    (s.writeFlagThenResult x f r).params = s.params := rfl
@[simp] theorem writeFlagAndResult_params (s : State) (x : Nibble) (f r : Byte) :
    (s.writeFlagAndResult x f r).params = s.params := by
  unfold State.writeFlagAndResult; split <;> rfl
@[simp] theorem writeRegs_params (s : State) (k : Nat) (bs : List Byte) : (s.writeRegs k bs).params = s.params := by
  rw [writeRegs_eq_setV]; rfl
@[simp] theorem writeFlagThenResult_freeCount (s : State) (x : Nibble) (f r : Byte) :
    (s.writeFlagThenResult x f r).freeCount = s.freeCount := rfl
@[simp] theorem writeFlagAndResult_freeCount (s : State) (x : Nibble) (f r : Byte) :
    (s.writeFlagAndResult x f r).freeCount = s.freeCount := by
  unfold State.writeFlagAndResult; split <;> rfl
@[simp] theorem writeRegs_freeCount (s : State) (k : Nat) (bs : List Byte) : (s.writeRegs k bs).freeCount = s.freeCount := by
  rw [writeRegs_eq_setV]; rfl
@[simp] theorem pressed_writeFlagThenResult (s : State) (x : Nibble) (f r : Byte) (k : Nibble) :
    (s.writeFlagThenResult x f r).pressed k = s.pressed k := rfl
@[simp] theorem pressed_writeFlagAndResult (s : State) (x : Nibble) (f r : Byte) (k : Nibble) :
    (s.writeFlagAndResult x f r).pressed k = s.pressed k := by
  unfold State.writeFlagAndResult; split <;> rfl
@[simp] theorem pressed_writeRegs (s : State) (j : Nat) (bs : List Byte) (k : Nibble) :
    (s.writeRegs j bs).pressed k = s.pressed k := by
  rw [writeRegs_eq_setV]; rfl

/-! Framebuffer cells. -/

/-- Toggling a cell of the screen flips that cell and no other (R103). -/
theorem pixel_toggle (f : Frame) {x y : Nat} (hx : x < 64) (hy : y < 32) (a b : Nat) :
    (f.toggle x y).pixel a b = xor (f.pixel a b) (decide (a = x ∧ b = y)) := by
  unfold Frame.toggle Frame.pixel
  by_cases hb : b < 32
  · by_cases hby : b = y
    · subst hby
      by_cases ha : x = a
      · subst ha; simp [hb, hx]
      · have ha' : ¬ a = x := fun e => ha e.symm
        simp [hb, BitVec.getLsbD_twoPow, ha, ha']
    · simp only [hy, hb, dif_pos]
      rw [Vector.getElem_set_ne _ _ (fun e => hby e.symm)]
      simp [hby]
  · have hby : b ≠ y := by omega
    simp [hb, hby]

@[simp] theorem pixel_blank (x y : Nat) : Frame.blank.pixel x y = false := by
  unfold Frame.pixel Frame.blank
  by_cases h : y < 32 <;> simp [h]

/-- A cell off the screen is ignored under clip (R105). -/
theorem drawCell_clip {bit : Bool} {px py : Nat} (h : 63 < px ∨ 31 < py) (b : Blit) :
    drawCell .clip bit px py b = .ok b := by
  simp [drawCell, h]

/-- A cell off the screen faults under fault, lit or not (R105). -/
theorem drawCell_fault {bit : Bool} {px py : Nat} (h : 63 < px ∨ 31 < py) (b : Blit) :
    drawCell .fault bit px py b = .error .drawOutOfBounds := by
  simp [drawCell, h]

/-- On the screen a lit bit toggles its cell and a dark bit changes nothing (R101, R103). -/
theorem drawCell_onScreen (edge : Config.DrawEdge) (bit : Bool) {px py : Nat} (hx : px < 64) (hy : py < 32)
    (b : Blit) : drawCell edge bit px py b =
      .ok (if bit then ⟨b.fb.toggle px py, b.hit || b.fb.pixel px py⟩ else b) := by
  have h : ¬ (63 < px ∨ 31 < py) := by omega
  cases bit <;> simp [drawCell, h]

end Sys2Proof.Machine
end

