-- ==== Sys2Proof/Laws/Drawing.lean ====
section
/-! SUPPORT. What a sprite row and a whole sprite do (44_drawing R101-R105), cell by cell, and where a blit
faults. -/

namespace Sys2Proof.Machine

theorem exists_mem_cons_iff {a : Nat} {l : List Nat} {p : Nat → Prop} :
    (∃ c ∈ a :: l, p c) ↔ p a ∨ ∃ c ∈ l, p c := by simp

/-- The cells of one row, none of which faults: each lit bit flips its own cell, and a collision is a lit
bit over a lit cell of the screen (R103, R104, R105). -/
theorem drawCells_ok (edge : Config.DrawEdge) (byte : Byte) (x0 py : Nat) {cs : List Nat} (hn : cs.Nodup)
    (hedge : edge = .clip ∨ (py < 32 ∧ ∀ c ∈ cs, x0 + c < 64)) (b : Blit) :
    ∃ b', drawCells edge byte x0 py cs b = .ok b' ∧
      (∀ px qy, px < 64 → qy < 32 → b'.fb.pixel px qy =
        (b.fb.pixel px qy != decide (qy = py ∧ ∃ c ∈ cs, px = x0 + c ∧ byte.getLsbD (7 - c) = true))) ∧
      (b'.hit = true ↔ b.hit = true ∨ ∃ c ∈ cs, x0 + c < 64 ∧ py < 32 ∧ byte.getLsbD (7 - c) = true ∧
        b.fb.pixel (x0 + c) py = true) := by
  induction cs generalizing b with
  | nil => exact ⟨b, rfl, by simp, by simp⟩
  | cons c cs ih =>
    obtain ⟨hc, hn'⟩ := List.nodup_cons.mp hn
    have hedge' : edge = .clip ∨ (py < 32 ∧ ∀ c ∈ cs, x0 + c < 64) :=
      hedge.imp_right fun h => ⟨h.1, fun d hd => h.2 d (List.mem_cons_of_mem _ hd)⟩
    by_cases hoff : 63 < x0 + c ∨ 31 < py
    · have hclip : edge = .clip := by
        rcases hedge with h | ⟨h1, h2⟩
        · exact h
        · have := h2 c (by simp); omega
      subst hclip
      obtain ⟨b', hb, hp, hh⟩ := ih hn' hedge' b
      refine ⟨b', by rw [drawCells, drawCell_clip hoff]; exact hb, ?_, ?_⟩
      · intro px qy hx hy
        rw [hp px qy hx hy]
        have : ¬ (qy = py ∧ px = x0 + c) := by omega
        refine congrArg _ (decide_eq_decide.mpr ?_)
        rw [exists_mem_cons_iff]
        exact ⟨fun ⟨h, h'⟩ => ⟨h, .inr h'⟩, fun ⟨h, h'⟩ => ⟨h, h'.resolve_left fun h'' => this ⟨h, h''.1⟩⟩⟩
      · rw [hh]
        have : ¬ (x0 + c < 64 ∧ py < 32) := by omega
        rw [exists_mem_cons_iff]
        exact or_congr_right (iff_or_self.mpr fun h => absurd ⟨h.1, h.2.1⟩ this)
    · have hx0 : x0 + c < 64 := by omega
      have hpy : py < 32 := by omega
      by_cases hbit : byte.getLsbD (7 - c) = true
      · obtain ⟨b', hb, hp, hh⟩ := ih hn' hedge' ⟨b.fb.toggle (x0 + c) py, b.hit || b.fb.pixel (x0 + c) py⟩
        refine ⟨b', by rw [drawCells, drawCell_onScreen _ _ hx0 hpy, if_pos hbit]; exact hb, ?_, ?_⟩
        · intro px qy hx hy
          rw [hp px qy hx hy, pixel_toggle _ hx0 hpy]
          by_cases h1 : px = x0 + c ∧ qy = py
          · obtain ⟨rfl, rfl⟩ := h1
            have h2 : ¬ ∃ d ∈ cs, x0 + c = x0 + d ∧ byte.getLsbD (7 - d) = true := by
              rintro ⟨d, hd, he, _⟩
              exact hc (by rwa [show c = d by omega])
            have h3 : ∃ d ∈ c :: cs, x0 + c = x0 + d ∧ byte.getLsbD (7 - d) = true :=
              ⟨c, List.mem_cons_self, rfl, hbit⟩
            simp only [h2, h3, and_self, and_false, decide_true, decide_false, Bool.bne_false,
              Bool.xor_true]
          · simp only [h1, decide_false, Bool.xor_false]
            refine congrArg _ (decide_eq_decide.mpr ?_)
            rw [exists_mem_cons_iff]
            exact ⟨fun ⟨h, h'⟩ => ⟨h, .inr h'⟩,
              fun ⟨h, h'⟩ => ⟨h, h'.resolve_left fun h'' => h1 ⟨h''.1, h⟩⟩⟩
        · rw [hh]
          rw [exists_mem_cons_iff]
          simp only [Bool.or_eq_true, hx0, hpy, hbit, true_and, or_assoc]
          have hpix : ∀ d ∈ cs, (b.fb.toggle (x0 + c) py).pixel (x0 + d) py = b.fb.pixel (x0 + d) py := by
            intro d hd
            have hne : ¬ d = c := fun e => hc (e ▸ hd)
            simp [pixel_toggle _ hx0 hpy, hne]
          refine or_congr_right (or_congr_right ?_)
          exact exists_congr fun d => and_congr_right fun hd => by rw [hpix d hd]
      · obtain ⟨b', hb, hp, hh⟩ := ih hn' hedge' b
        refine ⟨b', by rw [drawCells, drawCell_onScreen _ _ hx0 hpy, if_neg hbit]; exact hb, ?_, ?_⟩
        · intro px qy hx hy
          rw [hp px qy hx hy]
          refine congrArg _ (decide_eq_decide.mpr ?_)
          rw [exists_mem_cons_iff]
          exact ⟨fun ⟨h, h'⟩ => ⟨h, .inr h'⟩,
            fun ⟨h, h'⟩ => ⟨h, h'.resolve_left fun h'' => hbit h''.2⟩⟩
        · rw [hh, exists_mem_cons_iff]
          exact or_congr_right (iff_or_self.mpr fun h => absurd h.2.2.1 hbit)

/-- A row with a cell off the screen faults under fault (R105). -/
theorem drawCells_fault (byte : Byte) (x0 py : Nat) {cs : List Nat} (b : Blit)
    (h : ∃ c ∈ cs, 63 < x0 + c ∨ 31 < py) : drawCells .fault byte x0 py cs b = .error .drawOutOfBounds := by
  induction cs generalizing b with
  | nil => simp at h
  | cons c cs ih =>
    by_cases hoff : 63 < x0 + c ∨ 31 < py
    · rw [drawCells, drawCell_fault hoff]
    · rw [drawCells, drawCell_onScreen _ _ (by omega) (by omega)]
      obtain ⟨d, hd, h⟩ := h
      rcases List.mem_cons.mp hd with rfl | hd
      · exact absurd h hoff
      · exact ih _ ⟨d, hd, h⟩

/-- Rows that are all in memory, none of whose cells faults: each lit bit flips its own cell, and a
collision is a lit bit over a lit cell of the screen (R103, R104, R105). -/
theorem drawRows_ok (s : State) (x0 y0 : Nat) {rs : List Nat} (hn : rs.Nodup)
    (hmem : ∀ r ∈ rs, s.i.toNat + r ≤ 0xFFF)
    (hedge : s.params.drawEdge = .clip ∨ ∀ r ∈ rs, y0 + r < 32 ∧ x0 + 8 ≤ 64) (b : Blit) :
    ∃ b', s.drawRows x0 y0 rs b = .ok b' ∧
      (∀ px qy, px < 64 → qy < 32 → b'.fb.pixel px qy =
        (b.fb.pixel px qy != decide (∃ r ∈ rs, qy = y0 + r ∧ ∃ c ∈ List.range 8, px = x0 + c ∧
          (s.mem.read (s.i.toNat + r)).getLsbD (7 - c) = true))) ∧
      (b'.hit = true ↔ b.hit = true ∨ ∃ r ∈ rs, ∃ c ∈ List.range 8, x0 + c < 64 ∧ y0 + r < 32 ∧
        (s.mem.read (s.i.toNat + r)).getLsbD (7 - c) = true ∧ b.fb.pixel (x0 + c) (y0 + r) = true) := by
  induction rs generalizing b with
  | nil => exact ⟨b, rfl, by simp, by simp⟩
  | cons r rs ih =>
    obtain ⟨hr, hn'⟩ := List.nodup_cons.mp hn
    obtain ⟨b1, hb1, hp1, hh1⟩ := drawCells_ok s.params.drawEdge (s.mem.read (s.i.toNat + r)) x0 (y0 + r)
      (cs := List.range 8) List.nodup_range
      (hedge.imp_right fun h => ⟨(h r (by simp)).1, fun c hc => by
        have := (h r (by simp)).2
        have := List.mem_range.mp hc
        omega⟩) b
    obtain ⟨b2, hb2, hp2, hh2⟩ := ih hn' (fun q hq => hmem q (List.mem_cons_of_mem _ hq))
      (hedge.imp_right fun h q hq => h q (List.mem_cons_of_mem _ hq)) b1
    refine ⟨b2, by rw [State.drawRows, memRead_inside (hmem r (by simp))]; simp only [hb1]; exact hb2, ?_, ?_⟩
    · intro px qy hx hy
      rw [hp2 px qy hx hy, hp1 px qy hx hy]
      simp only [exists_mem_cons_iff]
      by_cases h1 : qy = y0 + r
      · have h2 : ¬ ∃ q ∈ rs, qy = y0 + q ∧ ∃ c ∈ List.range 8, px = x0 + c ∧
            (s.mem.read (s.i.toNat + q)).getLsbD (7 - c) = true := by
          rintro ⟨q, hq, he, _⟩
          exact hr (by rwa [show r = q by omega])
        simp only [h1] at h2 ⊢
        simp only [h2, true_and, or_false, decide_false, Bool.bne_false]
      · simp only [h1, false_and, false_or, decide_false, Bool.bne_false]
    · rw [hh2, hh1]
      rw [exists_mem_cons_iff, or_assoc]
      have hpix : ∀ q ∈ rs, ∀ c, x0 + c < 64 → y0 + q < 32 →
          b1.fb.pixel (x0 + c) (y0 + q) = b.fb.pixel (x0 + c) (y0 + q) := by
        intro q hq c hx hy
        have hne : q ≠ r := fun e => hr (e ▸ hq)
        have : ¬ (y0 + q = y0 + r) := by omega
        rw [hp1 _ _ hx hy]
        simp only [this, false_and, decide_false, Bool.bne_false]
      refine or_congr_right (or_congr_right ?_)
      exact exists_congr fun q => and_congr_right fun hq => exists_congr fun c => and_congr_right fun _ =>
        and_congr_right fun hx => and_congr_right fun hy => by rw [hpix q hq c hx hy]

/-- Rows that reach a row out of memory, none before it faulting, report its address (R122, R127). -/
theorem drawRows_outside (s : State) (x0 y0 : Nat) {before after : List Nat} {r : Nat}
    (hn : before.Nodup) (hmem : ∀ q ∈ before, s.i.toNat + q ≤ 0xFFF)
    (hedge : s.params.drawEdge = .clip ∨ ∀ q ∈ before, y0 + q < 32 ∧ x0 + 8 ≤ 64)
    (hr : 0xFFF < s.i.toNat + r) (b : Blit) :
    s.drawRows x0 y0 (before ++ r :: after) b = .error (.memoryOutOfBounds (s.i.toNat + r)) := by
  induction before generalizing b with
  | nil => simp only [List.nil_append]; rw [State.drawRows, memRead_outside hr]
  | cons q qs ih =>
    obtain ⟨b1, hb1, -, -⟩ := drawCells_ok s.params.drawEdge (s.mem.read (s.i.toNat + q)) x0 (y0 + q)
      (cs := List.range 8) List.nodup_range
      (hedge.imp_right fun h => ⟨(h q (by simp)).1, fun c hc => by
        have := (h q (by simp)).2
        have := List.mem_range.mp hc
        omega⟩) b
    rw [List.cons_append, State.drawRows, memRead_inside (hmem q (by simp))]
    simp only [hb1]
    exact ih (List.nodup_cons.mp hn).2 (fun p hp => hmem p (List.mem_cons_of_mem _ hp))
      (hedge.imp_right fun h p hp => h p (List.mem_cons_of_mem _ hp)) b1

/-- Rows that reach a row with a cell off the screen, none before it faulting, fault under fault (R105,
R127). -/
theorem drawRows_edge (s : State) (x0 y0 : Nat) {before after : List Nat} {r : Nat}
    (hedge : s.params.drawEdge = .fault) (hn : before.Nodup)
    (hmem : ∀ q ∈ before, s.i.toNat + q ≤ 0xFFF) (hon : ∀ q ∈ before, y0 + q < 32 ∧ x0 + 8 ≤ 64)
    (hr : s.i.toNat + r ≤ 0xFFF) (hoff : 31 < y0 + r ∨ 64 < x0 + 8) (b : Blit) :
    s.drawRows x0 y0 (before ++ r :: after) b = .error .drawOutOfBounds := by
  induction before generalizing b with
  | nil =>
    have hc : ∃ c ∈ List.range 8, 63 < x0 + c ∨ 31 < y0 + r := ⟨7, by simp, by omega⟩
    rw [List.nil_append, State.drawRows, memRead_inside hr, hedge]
    simp only [drawCells_fault _ _ _ _ hc]
  | cons q qs ih =>
    obtain ⟨b1, hb1, -, -⟩ := drawCells_ok s.params.drawEdge (s.mem.read (s.i.toNat + q)) x0 (y0 + q)
      (cs := List.range 8) List.nodup_range
      (.inr ⟨(hon q (by simp)).1, fun c hc => by
        have := (hon q (by simp)).2
        have := List.mem_range.mp hc
        omega⟩) b
    rw [List.cons_append, State.drawRows, memRead_inside (hmem q (by simp))]
    simp only [hb1]
    exact ih (List.nodup_cons.mp hn).2 (fun p hp => hmem p (List.mem_cons_of_mem _ hp))
      (fun p hp => hon p (List.mem_cons_of_mem _ hp)) b1

end Sys2Proof.Machine
end

