-- ==== Sys2Proof/Laws/PerInstr.lean ====
section
/-! SUPPORT. Per-instruction laws about syntax: the class of an instruction's word, the first level of
decoding (30_encoding R52). -/

namespace Sys2Proof.Laws

/-- The class value of each instruction (R52, R60). -/
def classOf : Instr → Nibble
  | .cls => 0x0
  | .ret => 0x0
  | .jp _ => 0x1
  | .call _ => 0x2
  | .seImm _ _ => 0x3
  | .sneImm _ _ => 0x4
  | .seReg _ _ => 0x5
  | .ldImm _ _ => 0x6
  | .addImm _ _ => 0x7
  | .ldReg _ _ => 0x8
  | .orReg _ _ => 0x8
  | .andReg _ _ => 0x8
  | .xorReg _ _ => 0x8
  | .addReg _ _ => 0x8
  | .sub _ _ => 0x8
  | .shr _ _ => 0x8
  | .subn _ _ => 0x8
  | .shl _ _ => 0x8
  | .sneReg _ _ => 0x9
  | .ldI _ => 0xA
  | .jpV0 _ => 0xB
  | .rnd _ _ => 0xC
  | .drw _ _ _ => 0xD
  | .skp _ => 0xE
  | .sknp _ => 0xE
  | .ldVxDt _ => 0xF
  | .ldVxK _ => 0xF
  | .ldDtVx _ => 0xF
  | .ldStVx _ => 0xF
  | .addI _ => 0xF
  | .ldF _ => 0xF
  | .ldB _ => 0xF
  | .storeRegs _ => 0xF
  | .loadRegs _ => 0xF
  | .nop8XY8 _ _ => 0x8
  | .nop8XY9 _ _ => 0x8
  | .nop8XYA _ _ => 0x8
  | .nop8XYB _ _ => 0x8
  | .nop8XYC _ _ => 0x8
  | .nop8XYD _ _ => 0x8
  | .nop8XYF _ _ => 0x8
  | .nopSys _ => 0x0
  | .nopE _ _ => 0xE
  | .nopF _ _ => 0xF
  | .nopStrict5 _ _ _ => 0x5
  | .nopStrict9 _ _ _ => 0x9

/-- The highest nibble of an instruction's word is its class. -/
def ClassNibble.Statement (i : Instr) : Prop := fieldC (encode i) = classOf i

theorem ClassNibble.cls : ClassNibble.Statement .cls := fieldC_formatA _ _
theorem ClassNibble.ret : ClassNibble.Statement .ret := fieldC_formatA _ _
theorem ClassNibble.jp (nnn : Addr12) : ClassNibble.Statement (.jp nnn) := fieldC_formatA _ _
theorem ClassNibble.call (nnn : Addr12) : ClassNibble.Statement (.call nnn) := fieldC_formatA _ _
theorem ClassNibble.seImm (x : Nibble) (nn : Byte) : ClassNibble.Statement (.seImm x nn) := fieldC_formatXNN _ _ _
theorem ClassNibble.sneImm (x : Nibble) (nn : Byte) : ClassNibble.Statement (.sneImm x nn) := fieldC_formatXNN _ _ _
theorem ClassNibble.seReg (x y : Nibble) : ClassNibble.Statement (.seReg x y) := fieldC_formatXYN _ _ _ _
theorem ClassNibble.ldImm (x : Nibble) (nn : Byte) : ClassNibble.Statement (.ldImm x nn) := fieldC_formatXNN _ _ _
theorem ClassNibble.addImm (x : Nibble) (nn : Byte) : ClassNibble.Statement (.addImm x nn) := fieldC_formatXNN _ _ _
theorem ClassNibble.ldReg (x y : Nibble) : ClassNibble.Statement (.ldReg x y) := fieldC_formatXYN _ _ _ _
theorem ClassNibble.orReg (x y : Nibble) : ClassNibble.Statement (.orReg x y) := fieldC_formatXYN _ _ _ _
theorem ClassNibble.andReg (x y : Nibble) : ClassNibble.Statement (.andReg x y) := fieldC_formatXYN _ _ _ _
theorem ClassNibble.xorReg (x y : Nibble) : ClassNibble.Statement (.xorReg x y) := fieldC_formatXYN _ _ _ _
theorem ClassNibble.addReg (x y : Nibble) : ClassNibble.Statement (.addReg x y) := fieldC_formatXYN _ _ _ _
theorem ClassNibble.sub (x y : Nibble) : ClassNibble.Statement (.sub x y) := fieldC_formatXYN _ _ _ _
theorem ClassNibble.shr (x y : Nibble) : ClassNibble.Statement (.shr x y) := fieldC_formatXYN _ _ _ _
theorem ClassNibble.subn (x y : Nibble) : ClassNibble.Statement (.subn x y) := fieldC_formatXYN _ _ _ _
theorem ClassNibble.shl (x y : Nibble) : ClassNibble.Statement (.shl x y) := fieldC_formatXYN _ _ _ _
theorem ClassNibble.sneReg (x y : Nibble) : ClassNibble.Statement (.sneReg x y) := fieldC_formatXYN _ _ _ _
theorem ClassNibble.ldI (nnn : Addr12) : ClassNibble.Statement (.ldI nnn) := fieldC_formatA _ _
theorem ClassNibble.jpV0 (nnn : Addr12) : ClassNibble.Statement (.jpV0 nnn) := fieldC_formatA _ _
theorem ClassNibble.rnd (x : Nibble) (nn : Byte) : ClassNibble.Statement (.rnd x nn) := fieldC_formatXNN _ _ _
theorem ClassNibble.drw (x y n : Nibble) : ClassNibble.Statement (.drw x y n) := fieldC_formatXYN _ _ _ _
theorem ClassNibble.skp (x : Nibble) : ClassNibble.Statement (.skp x) := fieldC_formatXNN _ _ _
theorem ClassNibble.sknp (x : Nibble) : ClassNibble.Statement (.sknp x) := fieldC_formatXNN _ _ _
theorem ClassNibble.ldVxDt (x : Nibble) : ClassNibble.Statement (.ldVxDt x) := fieldC_formatXNN _ _ _
theorem ClassNibble.ldVxK (x : Nibble) : ClassNibble.Statement (.ldVxK x) := fieldC_formatXNN _ _ _
theorem ClassNibble.ldDtVx (x : Nibble) : ClassNibble.Statement (.ldDtVx x) := fieldC_formatXNN _ _ _
theorem ClassNibble.ldStVx (x : Nibble) : ClassNibble.Statement (.ldStVx x) := fieldC_formatXNN _ _ _
theorem ClassNibble.addI (x : Nibble) : ClassNibble.Statement (.addI x) := fieldC_formatXNN _ _ _
theorem ClassNibble.ldF (x : Nibble) : ClassNibble.Statement (.ldF x) := fieldC_formatXNN _ _ _
theorem ClassNibble.ldB (x : Nibble) : ClassNibble.Statement (.ldB x) := fieldC_formatXNN _ _ _
theorem ClassNibble.storeRegs (x : Nibble) : ClassNibble.Statement (.storeRegs x) := fieldC_formatXNN _ _ _
theorem ClassNibble.loadRegs (x : Nibble) : ClassNibble.Statement (.loadRegs x) := fieldC_formatXNN _ _ _
theorem ClassNibble.nop8XY8 (x y : Nibble) : ClassNibble.Statement (.nop8XY8 x y) := fieldC_formatXYN _ _ _ _
theorem ClassNibble.nop8XY9 (x y : Nibble) : ClassNibble.Statement (.nop8XY9 x y) := fieldC_formatXYN _ _ _ _
theorem ClassNibble.nop8XYA (x y : Nibble) : ClassNibble.Statement (.nop8XYA x y) := fieldC_formatXYN _ _ _ _
theorem ClassNibble.nop8XYB (x y : Nibble) : ClassNibble.Statement (.nop8XYB x y) := fieldC_formatXYN _ _ _ _
theorem ClassNibble.nop8XYC (x y : Nibble) : ClassNibble.Statement (.nop8XYC x y) := fieldC_formatXYN _ _ _ _
theorem ClassNibble.nop8XYD (x y : Nibble) : ClassNibble.Statement (.nop8XYD x y) := fieldC_formatXYN _ _ _ _
theorem ClassNibble.nop8XYF (x y : Nibble) : ClassNibble.Statement (.nop8XYF x y) := fieldC_formatXYN _ _ _ _
theorem ClassNibble.nopSys (nnn : Addr12) : ClassNibble.Statement (.nopSys nnn) := fieldC_formatA _ _
theorem ClassNibble.nopE (x : Nibble) (nn : Byte) : ClassNibble.Statement (.nopE x nn) := fieldC_formatXNN _ _ _
theorem ClassNibble.nopF (x : Nibble) (nn : Byte) : ClassNibble.Statement (.nopF x nn) := fieldC_formatXNN _ _ _
theorem ClassNibble.nopStrict5 (x y n : Nibble) : ClassNibble.Statement (.nopStrict5 x y n) := fieldC_formatXYN _ _ _ _
theorem ClassNibble.nopStrict9 (x y n : Nibble) : ClassNibble.Statement (.nopStrict9 x y n) := fieldC_formatXYN _ _ _ _

end Sys2Proof.Laws
end

