-- ==== Sys2Proof/Tests/Slice0.lean ====
section
/-! SUPPORT. The model's own tests: expected values from spec/95_test_vectors.md (the id stands before each
test) and the examples of the rules; and a witness for the hypotheses of every statement that has some. -/

namespace Sys2Proof.Tests

open Sys2Proof.Machine

/-! Helpers: a state after reset with some registers set, one cycle of a word placed at PC, and what the
next state reads. -/

/-- Reset with the listed registers set. -/
def regs (l : List (Nibble × Byte)) : State := l.foldl (fun s p => s.writeV p.1 p.2) State.reset

/-- The next state's reading after one cycle of word `w` from `s`. -/
def after {α : Type} (s : State) (w : Nat) (f : State → α) : Option α :=
  match step (s.withFetchWord 16 w) with
  | .next t => some (f t)
  | .fault _ => none
  | .refused _ => none

/-- A state with bytes placed in memory. -/
def withBytes (s : State) (a : Nat) (bs : List Byte) : State := s.setMem (s.mem.writeList a bs)

/-- A state with one key pressed. -/
def withKey (s : State) (k : Nat) : State := s.setKey k true

/-- A state with 16 return addresses held. -/
def fullStack : State := State.reset.setStack (List.replicate 16 0x200)

/-- Reset with one parameter record in place of the default. -/
def withParams (p : Config.Params) : State := { State.reset with params := p }

/-! Well-formedness refuses each ill-formed term (R54-R57, R59). -/

theorem test_wf_refuses_sys : (Instr.nopSys 0x0E0).wf false = false ∧ (Instr.nopSys 0x0EE).wf true = false := by
  decide
theorem test_wf_refuses_classE : (Instr.nopE 3 0x9E).wf false = false ∧ (Instr.nopE 3 0xA1).wf false = false := by
  decide
theorem test_wf_refuses_classF :
    ([0x07, 0x0A, 0x15, 0x18, 0x1E, 0x29, 0x33, 0x55, 0x65] : List Byte).all
      (fun b => !(Instr.nopF 0 b).wf false) = true := by decide
theorem test_wf_refuses_strict5 :
    (Instr.nopStrict5 1 2 3).wf false = false ∧ (Instr.nopStrict5 1 2 0).wf true = false := by decide
theorem test_wf_refuses_strict9 :
    (Instr.nopStrict9 1 2 3).wf false = false ∧ (Instr.nopStrict9 1 2 0).wf true = false := by decide
theorem test_decode_refuses_truncated :
    (match decodeBytes false [0x12] with | .ok _ => false | .error e => e == .truncated) = true := by decide

/-! Decoding: each constructor by a word written out bit by bit from the table's encoding (R60). -/

theorem test_decode_class0 : decode false 0b0000000011100000 = .cls ∧ decode false 0b0000000011101110 = .ret ∧
    decode false 0b0000000100100011 = .nopSys 0x123 := by decide
theorem test_decode_jumps : decode false 0b0001001000010000 = .jp 0x210 ∧
    decode false 0b0010001000010000 = .call 0x210 ∧ decode false 0b1011001100000000 = .jpV0 0x300 := by decide
theorem test_decode_skips : decode false 0b0011000101000010 = .seImm 1 0x42 ∧
    decode false 0b0100000101000010 = .sneImm 1 0x42 ∧ decode false 0b0101001000110001 = .seReg 2 3 ∧
    decode false 0b1001001000110001 = .sneReg 2 3 := by decide
theorem test_decode_strict : decode true 0b0101001000110001 = .nopStrict5 2 3 1 ∧
    decode true 0b1001001000110001 = .nopStrict9 2 3 1 ∧ decode true 0b0101001000110000 = .seReg 2 3 ∧
    decode true 0b1001001000110000 = .sneReg 2 3 := by decide
theorem test_decode_immediates : decode false 0b0110101001000010 = .ldImm 0xA 0x42 ∧
    decode false 0b0111001100000001 = .addImm 3 0x01 ∧ decode false 0b1100001100001111 = .rnd 3 0x0F ∧
    decode false 0b1010001100000000 = .ldI 0x300 := by decide
theorem test_decode_class8 : decode false 0b1000000100100000 = .ldReg 1 2 ∧
    decode false 0b1000000100100001 = .orReg 1 2 ∧ decode false 0b1000000100100010 = .andReg 1 2 ∧
    decode false 0b1000000100100011 = .xorReg 1 2 ∧ decode false 0b1000000100100100 = .addReg 1 2 ∧
    decode false 0b1000000100100101 = .sub 1 2 ∧ decode false 0b1000000100100110 = .shr 1 2 ∧
    decode false 0b1000000100100111 = .subn 1 2 ∧ decode false 0b1000000100101110 = .shl 1 2 := by decide
theorem test_decode_class8_nops : decode false 0b1000000100101000 = .nop8XY8 1 2 ∧
    decode false 0b1000000100101001 = .nop8XY9 1 2 ∧ decode false 0b1000000100101010 = .nop8XYA 1 2 ∧
    decode false 0b1000000100101011 = .nop8XYB 1 2 ∧ decode false 0b1000000100101100 = .nop8XYC 1 2 ∧
    decode false 0b1000000100101101 = .nop8XYD 1 2 ∧ decode false 0b1000000100101111 = .nop8XYF 1 2 := by decide
theorem test_decode_draw : decode false 0b1101000000010101 = .drw 0 1 5 := by decide
theorem test_decode_classE : decode false 0b1110010110011110 = .skp 5 ∧ decode false 0b1110010110100001 = .sknp 5 ∧
    decode false 0b1110010100000000 = .nopE 5 0x00 := by decide
theorem test_decode_classF : decode false 0b1111000100000111 = .ldVxDt 1 ∧
    decode false 0b1111001000001010 = .ldVxK 2 ∧ decode false 0b1111000000010101 = .ldDtVx 0 ∧
    decode false 0b1111000000011000 = .ldStVx 0 ∧ decode false 0b1111000000011110 = .addI 0 ∧
    decode false 0b1111000000101001 = .ldF 0 ∧ decode false 0b1111000000110011 = .ldB 0 ∧
    decode false 0b1111000101010101 = .storeRegs 1 ∧ decode false 0b1111001001100101 = .loadRegs 2 ∧
    decode false 0b1111001000000000 = .nopF 2 0x00 := by decide
theorem test_encode_bytes : encodeBytes (.call 0x210) = [0x22, 0x10] ∧ encodeBytes (.drw 0 1 5) = [0xD0, 0x15] := by
  decide
theorem test_table_word : decodeTableWord 16 0x8014 = some (.addReg 0 1) := by decide

/-! Arithmetic and logic (95, 2.1 to 2.3). -/

-- V-LD-1
theorem test_ld_imm : after (regs []) 0x6A42 (fun t => (t.readV 0xA, t.pc)) = some (0x42, 0x202) := by decide
-- V-ADDI-1
theorem test_add_imm_no_flag :
    after (regs [(3, 0xFF), (0xF, 0x05)]) 0x7301 (fun t => (t.readV 3, t.readV 0xF)) = some (0x00, 0x05) := by decide
-- V-MOV-1
theorem test_copy : after (regs [(1, 0x07)]) 0x8010 (fun t => (t.readV 0, t.readV 1)) = some (0x07, 0x07) := by decide
-- V-OR-1
theorem test_or : after (regs [(0, 0x0F), (1, 0xF0), (0xF, 0x5A)]) 0x8011 (fun t => (t.readV 0, t.readV 0xF)) =
    some (0xFF, 0x5A) := by decide
-- V-AND-1
theorem test_and : after (regs [(0, 0x3C), (1, 0x0F), (0xF, 0x5A)]) 0x8012 (fun t => (t.readV 0, t.readV 0xF)) =
    some (0x0C, 0x5A) := by decide
-- V-XOR-1
theorem test_xor : after (regs [(0, 0xFF), (1, 0x0F)]) 0x8013 (fun t => t.readV 0) = some 0xF0 := by decide
-- V-ADD-1
theorem test_add_carry : after (regs [(0, 0xF0), (1, 0x20)]) 0x8014 (fun t => (t.readV 0, t.readV 0xF)) =
    some (0x10, 0x01) := by decide
-- V-ADD-5, flag_last
theorem test_add_alias_flag_last :
    after ((withParams { Config.defaultParams with vfAliasOrder := .flagLast }).writeV 0xF 0x10 |>.writeV 1 0xF5)
      0x8F14 (fun t => t.readV 0xF) = some 0x01 := by decide
-- V-SUB-3
theorem test_sub_equal : after (regs [(0, 0x07), (1, 0x07)]) 0x8015 (fun t => (t.readV 0, t.readV 0xF)) =
    some (0x00, 0x00) := by decide
-- V-SUB-6
theorem test_sub_latches_vf : after (regs [(0, 0x05), (0xF, 0x01)]) 0x80F5 (fun t => (t.readV 0, t.readV 0xF)) =
    some (0x04, 0x01) := by decide
-- V-SHR-3
theorem test_shr_ignores_vy : after (regs [(0, 0x04), (1, 0xFF)]) 0x8016
    (fun t => (t.readV 0, t.readV 0xF, t.readV 1)) = some (0x02, 0x00, 0xFF) := by decide
-- V-SHR-4, result_last
theorem test_shr_alias : after (regs [(0xF, 0x06)]) 0x8F06 (fun t => t.readV 0xF) = some 0x03 := by decide
-- V-SUBN-2
theorem test_subn_borrow : after (regs [(0, 0x05), (1, 0x03)]) 0x8017 (fun t => (t.readV 0, t.readV 0xF)) =
    some (0xFE, 0x00) := by decide
-- V-SUBN-4
theorem test_subn_alias : after (regs [(0xF, 0x01), (1, 0x10)]) 0x8F17 (fun t => t.readV 0xF) = some 0x0F := by decide
-- V-SHL-1
theorem test_shl_raw_bit : after (regs [(4, 0xC0)]) 0x840E (fun t => (t.readV 4, t.readV 0xF)) =
    some (0x80, 0x80) := by decide
-- V-ALU-NOP
theorem test_alu_nop : after (regs [(1, 0x01), (2, 0x02), (0xF, 0x09)]) 0x8129
    (fun t => (t.readV 1, t.readV 2, t.readV 0xF, t.pc)) = some (0x01, 0x02, 0x09, 0x202) := by decide

/-! Control flow (95, 2.4). -/

-- V-JP-2
theorem test_jp_wraps : after (regs []) 0x1000 (fun t => t.pc) = some 0x000 := by decide
-- V-CALL-1
theorem test_call : after (regs []) 0x2210 (fun t => (t.stack, t.pc)) = some ([0x200], 0x210) := by decide
-- V-CALL-1, target_plus_2
theorem test_call_plus_two :
    after (withParams { Config.defaultParams with callLanding := .targetPlus2 }) 0x2210 (fun t => t.pc) =
      some 0x212 := by decide
-- V-CALL-2
theorem test_call_overflow : after (fullStack.setDt 5) 0x2210
    (fun t => (t.fault, t.out, t.pc, t.sp, t.dt)) =
      some (some .stackOverflow, some (.err .stackOverflow), 0x200, 16, 5) := by decide
-- V-RET-1
theorem test_ret : after ((regs []).setStack [0x200] |>.setPc 0x210) 0x00EE (fun t => (t.pc, t.sp)) =
    some (0x202, 0) := by decide
-- V-RET-2
theorem test_ret_underflow : after ((regs []).setPc 0x210) 0x00EE (fun t => (t.fault, t.pc)) =
    some (some .stackUnderflow, 0x210) := by decide
-- V-SE-1
theorem test_se_imm : after ((regs []).setPc 0x208) 0x3000 (fun t => t.pc) = some 0x20C := by decide
-- V-SNE-1
theorem test_sne_imm : after (regs [(1, 0x05)]) 0x4105 (fun t => t.pc) = some 0x202 := by decide
-- V-SER-2
theorem test_se_reg_ignores_nibble : after (regs [(2, 0x11), (3, 0x11)]) 0x5231 (fun t => t.pc) = some 0x204 := by
  decide
-- V-SER-2, strict
theorem test_se_reg_strict_nop :
    after ((withParams { Config.defaultParams with skipRegStrict := true }).writeV 2 0x11 |>.writeV 3 0x11)
      0x5231 (fun t => t.pc) = some 0x202 := by decide
-- V-SNER-1
theorem test_sne_reg : after (regs [(2, 0x11), (3, 0x12)]) 0x9230 (fun t => t.pc) = some 0x204 := by decide
-- V-JPV0-2
theorem test_jp_v0_not_masked : after (regs [(0, 0xFF)]) 0xBFFF (fun t => t.pc) = some 0x10FE := by decide
-- V-NOP-2
theorem test_nop_ticks : after ((regs []).setDt 3 |>.setSt 1) 0x0000 (fun t => (t.pc, t.dt, t.st, t.out)) =
    some (0x202, 2, 0, some (.ok true)) := by decide

/-! Random (95, 2.5). -/

-- V-RND-2
theorem test_rnd_zero_mask : ∃ t, exec (.rnd 0 0x00) State.reset = .next t ∧ t.readV 0 = 0x00 :=
  ⟨_, rfl, by simp⟩

/-! Drawing (95, 1 and 2.6). -/

-- V-CLS-1
theorem test_cls : after ((regs [(5, 0x09)]).setFb ((Frame.blank.toggle 0 0).toggle 63 31)) 0x00E0
    (fun t => (t.fb.pixel 0 0, t.fb.pixel 63 31, t.readV 5, t.redraw)) = some (false, false, 0x09, true) := by decide
-- E6: rows 0 and 1 of glyph '0', column 4 dark
theorem test_draw_glyph : after (regs []) 0xD015 (fun t =>
    ((List.range 5).map (fun x => t.fb.pixel x 0), (List.range 5).map (fun x => t.fb.pixel x 1), t.readV 0xF,
      t.redraw)) =
    some ([true, true, true, true, false], [true, false, false, true, false], 0, true) := by decide +kernel
-- V-DRW-5
theorem test_draw_clips : after ((withBytes (regs [(0, 62)]) 0x300 [0xFF]).setI 0x300 |>.setFb (Frame.blank.toggle 0 0))
    0xD011 (fun t => (t.fb.pixel 62 0, t.fb.pixel 63 0, t.fb.pixel 0 0, t.fb.pixel 0 1, t.readV 0xF)) =
    some (true, true, true, false, 0) := by decide +kernel

/-! Index, keys, timers, memory transfer (95, 2.7). -/

-- V-LDI-1
theorem test_ld_i : after (regs []) 0xA300 (fun t => t.i) = some 0x0300 := by decide
-- V-SKP-1
theorem test_skp : after (withKey (regs [(5, 0x0A)]) 10) 0xE59E (fun t => t.pc) = some 0x204 := by decide
-- V-SKP-3
theorem test_skp_key_out_of_range : after (withKey (regs [(5, 0x10)]) 0) 0xE59E (fun t => (t.fault, t.pc)) =
    some (some (.keyIndexOutOfRange 0x10), 0x200) := by decide
-- V-SKNP-1
theorem test_sknp : after (regs [(5, 0x0A)]) 0xE5A1 (fun t => t.pc) = some 0x204 := by decide
-- V-GDT-1
theorem test_get_delay : after ((regs []).setDt 0x02) 0xF107 (fun t => (t.readV 1, t.dt)) = some (0x02, 0x01) := by
  decide
-- V-WAIT-1
theorem test_wait_repeats : after ((regs [(2, 0x55)]).setDt 2 |>.setPc 0x206) 0xF20A
    (fun t => (t.pc, t.readV 2, t.dt)) = some (0x206, 0x55, 1) := by decide
-- V-WAIT-2, key_index
theorem test_wait_lowest_key :
    after (withKey (withKey ((withParams { Config.defaultParams with waitkeyValue := .keyIndex }).setPc 0x206) 9) 3)
      0xF20A (fun t => (t.pc, t.readV 2)) = some (0x208, 0x03) := by decide
-- V-SDT-1
theorem test_set_delay : after (regs [(0, 0x03)]) 0xF015 (fun t => t.dt) = some 0x02 := by decide
-- V-SST-1
theorem test_set_sound : after (regs [(0, 0x01)]) 0xF018 (fun t => (t.out, t.st)) = some (some (.ok true), 0x00) := by
  decide
-- V-AI-2
theorem test_add_i_wraps : after ((regs [(0, 0x01), (0xF, 0x07)]).setI 0xFFFF) 0xF01E
    (fun t => (t.i, t.readV 0xF)) = some (0x0000, 0x07) := by decide
-- V-FNT-2
theorem test_font_address : after (regs [(0, 0xFF)]) 0xF029 (fun t => t.i) = some 0x04FB := by decide
-- E9
theorem test_bcd : after ((regs [(0, 0x9D)]).setI 0x300) 0xF033
    (fun t => (t.mem.read 0x300, t.mem.read 0x301, t.mem.read 0x302, t.i)) = some (1, 5, 7, 0x300) := by decide +kernel
-- V-BCD-4
theorem test_bcd_fault : after ((regs [(0, 0x9D)]).setI 0xFFE) 0xF033 (fun t => t.fault) =
    some (some (.memoryOutOfBounds 0x1000)) := by decide +kernel
-- V-STR-1
theorem test_store_regs : after ((regs [(0, 0x11), (1, 0x22), (2, 0x33)]).setI 0x400) 0xF155
    (fun t => (t.mem.read 0x400, t.mem.read 0x401, t.mem.read 0x402, t.i)) = some (0x11, 0x22, 0x00, 0x400) := by
  decide +kernel
-- V-STR-2
theorem test_store_fault : after ((regs []).setI 0xFF8) 0xFF55 (fun t => t.fault) =
    some (some (.memoryOutOfBounds 0x1000)) := by decide +kernel
-- V-LDM-2, the first six font bytes
theorem test_load_regs : after (regs []) 0xFF65 (fun t => (List.range 6).map (fun k => t.readV (BitVec.ofNat 4 k))) =
    some [0xF0, 0x90, 0x90, 0x90, 0xF0, 0x20] := by decide +kernel

/-! Fetch, faults and the caller's operations (95, 2.8). -/

/-- Reading the next state of a cycle on the state as it stands. -/
def cycleOf {α : Type} (s : State) (f : State → α) : Option α :=
  match step s with
  | .next t => some (f t)
  | .fault _ => none
  | .refused _ => none

-- V-FET-2
theorem test_fetch_edge : cycleOf (State.reset.setPc 0xFFF) (fun t => (t.fault, t.pc)) =
    some (some (.memoryOutOfBounds 0x1000), 0xFFF) := by decide
-- V-FET-3
theorem test_fetch_odd : cycleOf ((withBytes State.reset 0x201 [0x12, 0x00]).setPc 0x201) (fun t => t.pc) =
    some 0x200 := by decide
-- V-HOST-4, V-HOST-5
theorem test_set_key : State.reset.setKey 16 true = State.reset ∧
    ((State.reset.setKey 3 true).setKey 3 false).pressed 3 = false := ⟨rfl, by decide⟩
-- V-HOST-1
theorem test_load_too_large : State.reset.load (List.replicate 0xE01 0xAA) = .error .loadTooLarge :=
  if_pos (by rw [List.length_replicate]; decide)
-- R140: init() of a new machine is that machine
theorem test_init_of_reset : State.reset.init.mem = [] ∧ State.reset.init.pc = 0x200 := by decide +kernel

/-- A block store that stays in memory completes. -/
theorem exec_storeRegs_inside (s : State) (x : Nibble) (h : s.i.toNat + (x.toNat + 1) ≤ 0x1000) :
    exec (.storeRegs x) s = .next ((s.setMem (s.mem.writeList s.i.toNat (s.regsUpTo x))).setPc (s.pc + 2)) := by
  simp only [exec, execStoreRegs]
  rw [memWriteAll_inside (by simpa using h)]
  rfl

/-! Witnesses: for every statement with hypotheses, a state and operands that meet them. -/

theorem witness_DecodeInvertsEncode : (Instr.nopSys 0x0E1).wf false = true ∧ (Instr.nopSys 0x0EF).wf true = true ∧
    (Instr.nopE 0 0x9F).wf false = true ∧ (Instr.nopF 0 0x66).wf false = true ∧
    (Instr.nopStrict5 0 0 1).wf true = true ∧ (Instr.nopStrict9 0 0 0xF).wf true = true ∧
    (Instr.seReg 1 2).wf false = true := by decide
theorem witness_DecodingIsTotalAndUnambiguous :
    (Instr.jp 0x200).wf false = true ∧ encode (.jp 0x200) = 0x1200 := by decide

/-- Every word has fields, so the field hypotheses of the opcode map are met for every clause. -/
theorem witness_DecodeFollowsOpcodeMap (w : Word) : ∃ (x y n : Nibble) (nn : Byte) (nnn : Addr12),
    x.toNat = w.toNat / 256 % 16 ∧ y.toNat = w.toNat / 16 % 16 ∧ n.toNat = w.toNat % 16 ∧
    nn.toNat = w.toNat % 256 ∧ nnn.toNat = w.toNat % 4096 :=
  ⟨BitVec.ofNat 4 (w.toNat / 256), BitVec.ofNat 4 (w.toNat / 16), BitVec.ofNat 4 w.toNat,
    BitVec.ofNat 8 w.toNat, BitVec.ofNat 12 w.toNat, by simp, by simp, by simp, by simp, by simp⟩

/-- A word at the edge of each clause with several hypotheses: next to 00E0 and 00EE, 9E and A1, 07 and 65. -/
theorem witness_DecodeFollowsOpcodeMap_clauses :
    ((0x00EF : Word) &&& 0xF000 = 0x0000 ∧ (0x00EF : Word) ≠ 0x00E0 ∧ (0x00EF : Word) ≠ 0x00EE) ∧
    ((0xE09F : Word) &&& 0xF000 = 0xE000 ∧ (0x9F : Byte) ≠ 0x9E ∧ (0x9F : Byte) ≠ 0xA1) ∧
    ((0xF066 : Word) &&& 0xF000 = 0xF000 ∧ ([0x07, 0x0A, 0x15, 0x18, 0x1E, 0x29, 0x33, 0x55, 0x65] : List Byte).all
      (fun b => b != 0x66) = true) ∧
    (0x8AB9 : Word) &&& 0xF00F = 0x8009 ∧ (0xF30A : Word) &&& 0xF0FF = 0xF00A := by decide

theorem witness_StepRunsDecodedInstruction :
    State.reset.fault = none ∧ State.reset.pc.toNat + 1 ≤ 0xFFF ∧
    (Instr.nopSys 0x000).wf State.reset.params.skipRegStrict = true ∧
    decodeBytes State.reset.params.skipRegStrict
      [State.reset.mem.read State.reset.pc.toNat, State.reset.mem.read (State.reset.pc.toNat + 1)] =
        .ok (.nopSys 0x000, []) ∧
    exec (.nopSys 0x000) State.reset = .next (State.reset.setPc 0x202) := ⟨rfl, by decide, by decide, rfl, rfl⟩

/-- A fetch at the last word, and the state it leaves when the instruction there faults. -/
theorem witness_StepRunsDecodedInstruction_fault :
    exec .ret (State.reset.setPc 0xFFE) = .next ((State.reset.setPc 0xFFE).takeFault .stackUnderflow) ∧
    ((State.reset.setPc 0xFFE).takeFault .stackUnderflow).fault ≠ none := ⟨rfl, by decide⟩

theorem witness_completed_cycle : step State.reset = .next (State.reset.setPc 0x202).timerTick ∧
    (State.reset.setPc 0x202).timerTick.fault = none := ⟨rfl, rfl⟩
theorem witness_CycleTicksTimers : ∃ s t, step s = .next t ∧ t.fault = none :=
  ⟨_, _, witness_completed_cycle.1, witness_completed_cycle.2⟩
theorem witness_FaultedMachineRepeatsFault : ∃ (s : State) (f : Fault), s.fault = some f :=
  ⟨State.reset.setFault (some .stackOverflow), .stackOverflow, rfl⟩
theorem witness_FaultedMachineRepeatsFault_load : ∃ t,
    (State.reset.setFault (some .stackOverflow)).load [] = .ok t := ⟨_, rfl⟩
theorem witness_FetchFaultReportsFirstAddress :
    ((State.reset.setPc 0x0FFF).fault = none ∧ (State.reset.setPc 0x0FFF).pc = 0x0FFF) ∧
    ((State.reset.setPc 0x1000).fault = none ∧ 0x1000 ≤ (State.reset.setPc 0x1000).pc.toNat) ∧
    0x1000 ≤ (State.reset.setPc 0xFFFF).pc.toNat := by decide

/-- A cycle that faults at fetch. -/
theorem witness_faulting_cycle : step (State.reset.setPc 0xFFF) =
    .next ((State.reset.setPc 0xFFF).takeFault (.memoryOutOfBounds 0x1000)) := by
  rw [step, fetch_outside (by decide)]
  rfl
theorem witness_FaultKeepsControlState : ∃ s t f, step s = .next t ∧ t.fault = some f :=
  ⟨_, _, _, witness_faulting_cycle, rfl⟩

theorem witness_reset_inv : State.reset.Inv := by simp [State.Inv, State.reset, Memory.wf, Memory.wfFrom]
theorem witness_StepKeepsInvariant : ∃ s t : State, s.Inv ∧ step s = .next t :=
  ⟨_, _, witness_reset_inv, witness_completed_cycle.1⟩
theorem witness_CallerKeepsInvariant : ∃ s : State, s.Inv ∧ ∃ t, s.load [0x12, 0x00] = .ok t :=
  ⟨_, witness_reset_inv, _, rfl⟩
theorem witness_CompletedInstructionFrame : ∃ s t, exec (.storeRegs 0xF) s = .next t ∧ s.fault = none ∧ t.fault = none ∧
    s.i = 0xFF0 :=
  ⟨_, _, exec_storeRegs_inside (State.reset.setI 0xFF0) 0xF (by decide), rfl, rfl, rfl⟩
theorem witness_FaultsOnlyFromTheirInstructions : ∃ s t, exec .ret s = .next t ∧ s.fault = none ∧
    t.fault = some .stackUnderflow := ⟨State.reset, _, rfl, rfl, rfl⟩
theorem witness_OrdinaryInstructionsAdvanceByTwo : ∃ t, (Instr.ldImm 0xF 0xFF).transfers = false ∧
    exec (.ldImm 0xF 0xFF) (State.reset.setPc 0xFFFF) = .next t ∧ t.fault = none := ⟨_, rfl, rfl, rfl⟩

theorem witness_CallPushesAndLands :
    (State.reset.setStack (List.replicate 15 0x200)).sp < 16 ∧ 16 ≤ fullStack.sp ∧
    (withParams Config.defaultParams).params.callLanding = .target ∧
    (withParams { Config.defaultParams with callLanding := .targetPlus2 }).params.callLanding = .targetPlus2 := by
  decide
theorem witness_ReturnPops : (∃ a rest, (State.reset.setStack [0xFFFE]).stack = a :: rest) ∧ State.reset.sp = 0 :=
  ⟨⟨_, _, rfl⟩, rfl⟩
theorem witness_CallThenReturnComesBack : ∃ t, State.reset.sp < 16 ∧ exec (.call 0xFFF) State.reset = .next t :=
  ⟨_, by decide, rfl⟩
theorem witness_RandomByteIsMasked : (0xFE : Byte).getLsbD 0 = false := by decide
theorem witness_ClearScreenBlanksEveryCell :
    State.reset.params.clsSetsRedraw = true ∧
    (withParams { Config.defaultParams with clsSetsRedraw := false }).params.clsSetsRedraw = false := by decide

/-- Under clip the sprite may start at the last row and column; its last byte may be at 0xFFF. -/
theorem witness_DrawXorsSprite :
    (State.reset.setI 0xFF1).i.toNat + (0xF : Nibble).toNat ≤ 0x1000 ∧ State.reset.params.drawEdge = .clip ∧
    onScreen 56 17 15 ∧ onScreen 63 31 0 ∧
    ((regs [(0, 0x7F), (1, 0x3F)]).readV 0).toNat % 64 = 63 ∧
    ((regs [(0, 0x7F), (1, 0x3F)]).readV 1).toNat % 32 = 31 :=
  ⟨by decide, rfl, .inr (by decide), .inl rfl, by decide, by decide⟩
/-- Glyph '0' over a lit cell is a collision; over a blank screen it is none. -/
theorem witness_DrawXorsSprite_collision :
    spriteBit State.reset 0 0 5 3 1 = true ∧ (Frame.blank.toggle 3 1).pixel 3 1 = true ∧
    Frame.blank.pixel 3 1 = false := by decide
theorem witness_DrawTwiceErases : ∃ t u, (0 : Nibble) ≠ vf ∧ State.reset.fault = none ∧
    exec (.drw 0 0 0) State.reset = .next t ∧ t.fault = none ∧ exec (.drw 0 0 0) t = .next u ∧ u.fault = none :=
  ⟨_, _, by decide, rfl, rfl, rfl, rfl, rfl⟩
/-- Row 1 is the first out of memory and row 1 the first off the screen (memory wins); row 0 is off the
screen and row 1 out of memory. -/
theorem witness_DrawFaultsInRowOrder :
    (∃ s : State, s.params.drawEdge = .fault ∧ s.i = 0xFFF ∧ (s.readV 0).toNat % 64 = 0 ∧ (s.readV 1).toNat % 32 = 31) ∧
    (∃ s : State, s.params.drawEdge = .fault ∧ s.i = 0xFFF ∧ 56 < (s.readV 0).toNat % 64) :=
  ⟨⟨((withParams { Config.defaultParams with drawEdge := .fault }).setI 0xFFF).writeV 1 31,
      rfl, rfl, by decide, by decide⟩,
    ⟨((withParams { Config.defaultParams with drawEdge := .fault }).setI 0xFFF).writeV 0 57, rfl, rfl, by decide⟩⟩
theorem witness_DrawPastMemoryFaults : State.reset.params.drawEdge = .clip ∧ (2 : Nibble) ≠ 0 ∧
    0x1000 < (State.reset.setI 0xFFF).i.toNat + (2 : Nibble).toNat := by decide

theorem witness_SkipsOnKey :
    (((regs [(5, 15)]).readV 5).toNat ≤ 15 ∧ (0xF : Nibble).toNat = ((regs [(5, 15)]).readV 5).toNat % 16) ∧
    (15 < ((regs [(5, 16)]).readV 5).toNat ∧ (regs [(5, 16)]).params.keyIndexPolicy = .fault ∧
      (0 : Nibble).toNat = ((regs [(5, 16)]).readV 5).toNat % 16) ∧
    (withParams { Config.defaultParams with keyIndexPolicy := .lowNibble }).params.keyIndexPolicy = .lowNibble := by
  decide
theorem witness_WaitForKey :
    (∀ k, State.reset.pressed k = false) ∧
    (withBytes State.reset 0x200 [0xF2, 0x0A]).fetch = .ok (encode (.ldVxK 2)) ∧
    ((withKey State.reset 0xF).pressed 0xF = true ∧
      ∀ j : Nibble, j.toNat < 15 → (withKey State.reset 0xF).pressed j = false) :=
  ⟨by decide, rfl, by decide⟩
theorem witness_timer_statements : State.reset.fault = none := rfl
theorem witness_BcdStore : State.reset.mem.wf = true ∧ transferFits (State.reset.setI 0xFFD) 2 ∧
    ¬ transferFits (State.reset.setI 0xFFE) 2 :=
  ⟨rfl, by unfold transferFits; decide, by unfold transferFits; decide⟩
theorem witness_BlockStore : State.reset.mem.wf = true ∧ transferFits (State.reset.setI 0xFF0) (0xF : Nibble).toNat ∧
    ¬ transferFits (State.reset.setI 0x1000) (0 : Nibble).toNat :=
  ⟨rfl, by unfold transferFits; decide, by unfold transferFits; decide⟩
theorem witness_BlockLoad : transferFits (State.reset.setI 0xFFF) (0 : Nibble).toNat ∧
    ¬ transferFits (State.reset.setI 0xFFF) (1 : Nibble).toNat :=
  ⟨by unfold transferFits; decide, by unfold transferFits; decide⟩
theorem witness_CanonicalMemoriesEqual : Memory.wf [(0x200, 0x12)] = true ∧
    Memory.wf (Memory.write (Memory.write [] 0x201 0x34) 0x200 0x12) = true ∧ Memory.wf [(0x200, 0)] = false ∧
    Memory.wf [(0x000, 0xF0)] = false := by decide
theorem witness_StoreIsSeenByNextFetch : ∃ t, State.reset.mem.wf = true ∧ (State.reset.setI 0x202).fault = none ∧
    exec (.storeRegs 1) (State.reset.setI 0x202) = .next t ∧ t.fault = none ∧ 1 ≤ (1 : Nibble).toNat ∧
    (State.reset.setI 0x202).i = (State.reset.setI 0x202).pc + 2 :=
  ⟨_, rfl, rfl, exec_storeRegs_inside (State.reset.setI 0x202) 1 (by decide), rfl, by decide, rfl⟩
theorem witness_SelfLoopOnlyTicks :
    (withBytes State.reset 0x200 [0x12, 0x00]).fault = none ∧
    (withBytes State.reset 0x200 [0x12, 0x00]).fetch =
      .ok (0x1000 ||| (withBytes State.reset 0x200 [0x12, 0x00]).pc) := ⟨rfl, rfl⟩
theorem witness_CycleLeavesKeysAndParameters : ∃ s t, step s = .next t := ⟨_, _, witness_completed_cycle.1⟩
theorem witness_CompletedCycleKeepsRedraw : ∃ s t, step s = .next t ∧ t.fault = none ∧ s.redraw = true :=
  ⟨State.reset.setRedraw true, _, rfl, rfl, rfl⟩
theorem witness_LoadCopiesProgram : State.reset.mem.wf = true ∧
    (List.replicate 0xE00 (0xAA : Byte)).length ≤ 0xE00 ∧ 0xE00 < (List.replicate 0xE01 (0xAA : Byte)).length :=
  ⟨rfl, by rw [List.length_replicate], by rw [List.length_replicate]; decide⟩
theorem witness_SetKeySetsOneKey : (15 : Nat) < 16 := by decide
theorem witness_DisplayReads : 31 * 64 + 63 < 2048 ∧ 63 < 64 := by decide

end Sys2Proof.Tests
end

section
/-! Proofs of the arithmetic family (41_arithmetic R74-R86): what a register write and a flag-and-result
write leave of the state, what each flag is as a number, and the obligations from these. -/

namespace Sys2Proof.Machine

/-! The effect: an instruction that ends with new registers and the PC step. -/

/-- New registers and a new PC leave every other part alone. -/
theorem sameBut_setV_setPc (s : State) (v : Vector Byte 16) (w : Word) :
    SameBut [.v, .pc] s ((s.setV v).setPc w) := by
  intro p hp
  cases p with
  | v | pc => simp at hp
  | mem | key => exact fun _ => rfl
  | fb => exact fun _ _ => rfl
  | i | stack | dt | st | redraw | fault | out | params | freeCount => rfl

/-- Whatever `VF_ALIAS_ORDER` is, `writeFlagAndResult` sets registers and nothing else. -/
theorem writeFlagAndResult_eq_setV (s : State) (x : Nibble) (f r : Byte) :
    s.writeFlagAndResult x f r = s.setV (s.writeFlagAndResult x f r).v := by
  unfold State.writeFlagAndResult
  cases s.params.vfAliasOrder <;> rfl

/-- An instruction that writes one register and ends (R76, R77, R78). -/
theorem writesOnly_of_exec {i : Instr} {s : State} {x : Nibble} {b : Byte}
    (h : exec i s = finish s.pc (s.writeV x b)) : WritesOnly i s x b := by
  refine ⟨_, h, ?_, ?_, rfl, sameBut_setV_setPc s _ _⟩
  · simp
  · intro z hz
    simp [hz]

/-- An instruction that leaves `v` in the registers and ends: what `v` must hold to be the result in `V[x]`
and the flag in VF (R75). -/
theorem writesFlagged_of_exec {i : Instr} {s : State} {x : Nibble} {f r last : Byte} {v : Vector Byte 16}
    (h : exec i s = finish s.pc (s.setV v))
    (hx : x ≠ vf → (s.setV v).readV x = r) (hvf : (s.setV v).readV vf = if x = vf then last else f)
    (hz : ∀ z, z ≠ x → z ≠ vf → (s.setV v).readV z = s.readV z) : WritesFlagged i s x f r last :=
  ⟨_, h, fun hne => ⟨hx hne, hvf.trans (if_neg hne)⟩, fun he => hvf.trans (if_pos he), hz, rfl,
    sameBut_setV_setPc s v _⟩

/-- Flag first, then result: with x = F the result stays in VF (R75, 8XY5 and 8XY7). -/
theorem writesFlagged_of_writeFlagThenResult {i : Instr} {s : State} {x : Nibble} {f r : Byte}
    (h : exec i s = finish s.pc (s.writeFlagThenResult x f r)) : WritesFlagged i s x f r r := by
  have hread := readV_writeFlagThenResult s x (f := f) (r := r)
  refine writesFlagged_of_exec h (fun _ => ?_) ?_ fun z hzx hzf => ?_
  · exact (hread x).trans (if_pos rfl)
  · exact (hread vf).trans (by simp [eq_comm])
  · exact (hread z).trans (by simp [hzx, hzf])

/-- In the order of `VF_ALIAS_ORDER`: with x = F the later of the two writes stays in VF (R75, 8XY4, 8XY6 and
8XYE). -/
theorem writesFlagged_of_writeFlagAndResult {i : Instr} {s : State} {x : Nibble} {f r : Byte}
    (h : exec i s = finish s.pc (s.writeFlagAndResult x f r)) :
    WritesFlagged i s x f r (aliased s.params.vfAliasOrder f r) := by
  have hread := readV_writeFlagAndResult s x (f := f) (r := r)
  rw [writeFlagAndResult_eq_setV] at h hread
  refine writesFlagged_of_exec h (fun hne => ?_) ?_ fun z hzx hzf => ?_
  · rw [hread]
    cases s.params.vfAliasOrder <;> simp [hne]
  · rw [hread]
    cases s.params.vfAliasOrder <;> simp [aliased, eq_comm]
  · rw [hread]
    cases s.params.vfAliasOrder <;> simp [hzx, hzf]

/-! The flags as numbers. -/

@[simp] theorem flagByte_toNat (b : Bool) : (flagByte b).toNat = b.toNat := by
  cases b <;> rfl

/-- The carry out of the sum (R82). -/
theorem carryFlag_toNat (a b : Byte) :
    (carryFlag a b).toNat = if 255 < a.toNat + b.toNat then 1 else 0 := by
  rw [carryFlag, flagByte_toNat]
  by_cases h : 255 < a.toNat + b.toNat <;> simp [h]

/-- The no-borrow flag by the order of the operands (R83, R85). -/
theorem noBorrowFlag_toNat (equalFlag : Bool) (a b : Byte) :
    (noBorrowFlag equalFlag a b).toNat =
      if b.toNat < a.toNat then 1 else if a.toNat < b.toNat then 0 else equalFlag.toNat := by
  unfold noBorrowFlag
  rcases Nat.lt_trichotomy a.toNat b.toNat with hlt | heq | hgt
  · have hne : a ≠ b := fun e => by simp [e] at hlt
    simp [hlt, hlt.not_gt, hne]
  · have he : a = b := BitVec.eq_of_toNat_eq heq
    simp [he]
  · simp [hgt]

/-- The low bit, shifted out to the right (R84). -/
theorem shrFlag_toNat (a : Byte) : (shrFlag a).toNat = a.toNat % 2 := by
  rw [shrFlag, BitVec.toNat_and]
  exact Nat.and_one_is_mod a.toNat

/-- The high bit in place: it is set exactly from 128 on (R86). -/
theorem shlFlag_toNat (a : Byte) : (shlFlag a).toNat = if 128 ≤ a.toNat then 128 else 0 := by
  have hmsb : a.getLsbD 7 = decide (128 ≤ a.toNat) := BitVec.msb_eq_decide a
  have hand : shlFlag a = if a.getLsbD 7 then BitVec.twoPow 8 7 else 0#8 := BitVec.and_twoPow a 7
  rw [hand, hmsb]
  by_cases h : 128 ≤ a.toNat <;> simp [h]

/-! The results as numbers. -/

/-- The difference modulo 256 (R83, R85). -/
theorem byte_sub_toNat (a b : Byte) : (a - b).toNat = (256 + a.toNat - b.toNat) % 256 := by
  have hb := b.isLt
  rw [BitVec.toNat_sub]
  congr 1
  omega

theorem byte_shiftRight_one_toNat (a : Byte) : (a >>> 1).toNat = a.toNat / 2 := by
  rw [BitVec.toNat_ushiftRight, Nat.shiftRight_one]

theorem byte_shiftLeft_one_toNat (a : Byte) : (a <<< 1).toNat = 2 * a.toNat % 256 := by
  rw [BitVec.toNat_shiftLeft, Nat.shiftLeft_eq, Nat.mul_comm]

/-! The obligations. -/

/-- Settles O24: 8XY4 is `writeFlagAndResult` of `carryFlag` and the sum of bytes. -/
theorem addSetsCarry : Obligations.AddSetsCarry := fun s x y =>
  ⟨carryFlag (s.readV x) (s.readV y), s.readV x + s.readV y, BitVec.toNat_add _ _, carryFlag_toNat _ _,
    writesFlagged_of_writeFlagAndResult rfl⟩

/-- Settles O25: SUBN is SUB with the operands exchanged, and both write the flag first. -/
theorem subtractSetsNoBorrow : Obligations.SubtractSetsNoBorrow := fun s x y =>
  ⟨noBorrowFlag s.params.subEqualFlag (s.readV x) (s.readV y), s.readV x - s.readV y,
    noBorrowFlag s.params.subEqualFlag (s.readV y) (s.readV x), s.readV y - s.readV x,
    byte_sub_toNat _ _, byte_sub_toNat _ _, noBorrowFlag_toNat _ _ _, noBorrowFlag_toNat _ _ _,
    writesFlagged_of_writeFlagThenResult rfl, writesFlagged_of_writeFlagThenResult rfl⟩

/-- Settles O26: neither shift reads Vy, so result and flag are chosen before y. -/
theorem shiftsSetShiftedOutBit : Obligations.ShiftsSetShiftedOutBit := fun s x =>
  ⟨shrFlag (s.readV x), s.readV x >>> 1, shlFlag (s.readV x), s.readV x <<< 1,
    byte_shiftRight_one_toNat _, shrFlag_toNat _, byte_shiftLeft_one_toNat _, shlFlag_toNat _,
    fun _ => ⟨writesFlagged_of_writeFlagAndResult rfl, writesFlagged_of_writeFlagAndResult rfl⟩⟩

/-- Settles O21: both are one register write. -/
theorem loadImmediateAndCopy : Obligations.LoadImmediateAndCopy := fun _ _ _ _ =>
  ⟨writesOnly_of_exec rfl, writesOnly_of_exec rfl⟩

/-- Settles O22: one register write, of a sum of bytes. -/
theorem addImmediateWraps : Obligations.AddImmediateWraps := fun s x nn =>
  ⟨s.readV x + nn, BitVec.toNat_add _ _, writesOnly_of_exec rfl⟩

end Sys2Proof.Machine
end

section
/-! Proofs of the control-flow family (42_control_flow R89-R97): what an instruction that only moves PC
leaves of the state, where a skip lands, and the obligations from these. -/

namespace Sys2Proof.Machine

/-- A new PC leaves every other part alone. -/
theorem sameBut_setPc (s : State) (w : Word) : SameBut [.pc] s (s.setPc w) := by
  intro p hp
  cases p with
  | pc => simp at hp
  | v | mem | key => exact fun _ => rfl
  | fb => exact fun _ _ => rfl
  | i | stack | dt | st | redraw | fault | out | params | freeCount => rfl

/-- An instruction that changes nothing and ends goes to its `pc_pre` + 2 (R66, R89). -/
theorem goesTo_of_exec {i : Instr} {s : State} {pcPre : Word} (h : exec i s = finish pcPre s) :
    GoesTo i s (pcPre + 2) :=
  ⟨_, h, rfl, sameBut_setPc s _⟩

/-- The skip of R89 after the PC step: two instructions on when the condition holds, else one. -/
theorem skipPre_add_two (s : State) (cond : Bool) :
    s.skipPre cond + 2 = if cond then s.pc + 4 else s.pc + 2 := by
  cases cond with
  | true => exact BitVec.add_assoc s.pc 2 2
  | false => rfl

/-- An instruction that is a skip on `cond` (R89). -/
theorem goesTo_of_exec_skip {i : Instr} {s : State} {cond : Bool}
    (h : exec i s = finish (s.skipPre cond) s) :
    GoesTo i s (if cond then s.pc + 4 else s.pc + 2) :=
  skipPre_add_two s cond ▸ goesTo_of_exec h

/-- A skip when two values are equal (R93, R95). -/
theorem goesTo_of_exec_skip_beq {i : Instr} {s : State} {a b : Byte}
    (h : exec i s = finish (s.skipPre (a == b)) s) :
    GoesTo i s (if a = b then s.pc + 4 else s.pc + 2) := by
  simpa using goesTo_of_exec_skip h

/-- A skip when two values differ (R94, R96). -/
theorem goesTo_of_exec_skip_bne {i : Instr} {s : State} {a b : Byte}
    (h : exec i s = finish (s.skipPre (a != b)) s) :
    GoesTo i s (if a = b then s.pc + 2 else s.pc + 4) := by
  simpa using goesTo_of_exec_skip h

/-! The obligations. -/

/-- Settles O31: each is one skip, on equality and on its negation. -/
theorem skipsOnImmediate : Obligations.SkipsOnImmediate := fun _ _ _ =>
  ⟨goesTo_of_exec_skip_beq rfl, goesTo_of_exec_skip_bne rfl⟩

end Sys2Proof.Machine
end

section
/-! Proofs of the drawing family (44_drawing R102): what clear-screen leaves of the state, and its
obligation. -/

namespace Sys2Proof.Machine

/-- A new framebuffer, REDRAW and PC leave every other part alone. -/
theorem sameBut_setFb_setRedraw_setPc (s : State) (f : Frame) (b : Bool) (w : Word) :
    SameBut [.fb, .redraw, .pc] s (((s.setFb f).setRedraw b).setPc w) := by
  intro p hp
  cases p with
  | fb | redraw | pc => simp at hp
  | v | mem | key => exact fun _ => rfl
  | i | stack | dt | st | fault | out | params | freeCount => rfl

/-- Settles O35: clear-screen puts the blank frame, and REDRAW becomes `CLS_SETS_REDRAW` or its old
value. -/
theorem clearScreenBlanksEveryCell : Obligations.ClearScreenBlanksEveryCell := by
  intro s
  refine ⟨_, rfl, pixel_blank, fun hset => ?_, fun hkeep => ?_, rfl,
    sameBut_setFb_setRedraw_setPc s _ _ _⟩
  · simp [hset]
  · simp [hkeep]

end Sys2Proof.Machine
end

section
/-! Proofs about the encoding (30_encoding R49-R60): the formats put a word's own fields back together,
decoding class by class, the round trips in both directions, and the obligations from these. -/

namespace Sys2Proof

/-! A word from its own fields (R49, R50). -/

/-- A word of class `c` in format A. -/
theorem formatA_of_class {w : Word} {c : Nibble} (h : fieldC w = c) : formatA c (fieldNNN w) = w := by
  subst h
  ext i hi
  interval_cases i <;> simp [formatA, fieldC, fieldNNN]

/-- A word of class `c` in format XNN. -/
theorem formatXNN_of_class {w : Word} {c : Nibble} (h : fieldC w = c) :
    formatXNN c (fieldX w) (fieldNN w) = w := by
  subst h
  ext i hi
  interval_cases i <;> simp [formatXNN, fieldC, fieldX, fieldNN]

/-- A word of class `c` in format XYN. -/
theorem formatXYN_of_class {w : Word} {c : Nibble} (h : fieldC w = c) :
    formatXYN c (fieldX w) (fieldY w) (fieldN w) = w := by
  subst h
  ext i hi
  interval_cases i <;> simp [formatXYN, fieldC, fieldX, fieldY, fieldN]

/-- A word of class `c` and tail `nnn` in format A. -/
theorem formatA_of_class_low {w : Word} {c : Nibble} {nnn : Addr12} (hc : fieldC w = c)
    (hn : fieldNNN w = nnn) : formatA c nnn = w :=
  hn ▸ formatA_of_class hc

/-- A word of class `c` and low nibble `n` in format XYN. -/
theorem formatXYN_of_class_low {w : Word} {c n : Nibble} (hc : fieldC w = c) (hn : fieldN w = n) :
    formatXYN c (fieldX w) (fieldY w) n = w :=
  hn ▸ formatXYN_of_class hc

/-- A word of class `c` and low byte `nn` in format XNN. -/
theorem formatXNN_of_class_low {w : Word} {c : Nibble} {nn : Byte} (hc : fieldC w = c)
    (hn : fieldNN w = nn) : formatXNN c (fieldX w) nn = w :=
  hn ▸ formatXNN_of_class hc

/-- Format XYN with a zero low nibble clears that of the word. -/
theorem formatXYN_zero_of_class {w : Word} {c : Nibble} (h : fieldC w = c) :
    formatXYN c (fieldX w) (fieldY w) 0x0 = w &&& 0xFFF0 := by
  subst h
  ext i hi
  interval_cases i <;> simp [formatXYN, fieldC, fieldX, fieldY]

/-! Class by class (R52). -/

theorem not_mem_class0Low {nnn : Addr12} : nnn ∉ class0Low ↔ nnn ≠ 0x0E0 ∧ nnn ≠ 0x0EE := by
  simp only [class0Low, List.mem_cons, List.not_mem_nil, or_false, not_or, ne_eq]

theorem not_mem_classELow {nn : Byte} : nn ∉ classELow ↔ nn ≠ 0x9E ∧ nn ≠ 0xA1 := by
  simp only [classELow, List.mem_cons, List.not_mem_nil, or_false, not_or, ne_eq]

theorem not_mem_classFLow {nn : Byte} : nn ∉ classFLow ↔ nn ≠ 0x07 ∧ nn ≠ 0x0A ∧ nn ≠ 0x15 ∧
    nn ≠ 0x18 ∧ nn ≠ 0x1E ∧ nn ≠ 0x29 ∧ nn ≠ 0x33 ∧ nn ≠ 0x55 ∧ nn ≠ 0x65 := by
  simp only [classFLow, List.mem_cons, List.not_mem_nil, or_false, not_or, ne_eq]

@[simp] theorem wf_nopSys {strict : Bool} {nnn : Addr12} :
    (Instr.nopSys nnn).wf strict = true ↔ nnn ∉ class0Low := by simp [Instr.wf]

@[simp] theorem wf_nopE {strict : Bool} {x : Nibble} {nn : Byte} :
    (Instr.nopE x nn).wf strict = true ↔ nn ∉ classELow := by simp [Instr.wf]

@[simp] theorem wf_nopF {strict : Bool} {x : Nibble} {nn : Byte} :
    (Instr.nopF x nn).wf strict = true ↔ nn ∉ classFLow := by simp [Instr.wf]

section
variable {strict : Bool} {w : Word}

theorem decode_class0 (h : fieldC w = 0x0) : decode strict w = decode0 w := by simp [decode, h]
theorem decode_class1 (h : fieldC w = 0x1) : decode strict w = .jp (fieldNNN w) := by simp [decode, h]
theorem decode_class2 (h : fieldC w = 0x2) : decode strict w = .call (fieldNNN w) := by simp [decode, h]
theorem decode_class3 (h : fieldC w = 0x3) : decode strict w = .seImm (fieldX w) (fieldNN w) := by
  simp [decode, h]
theorem decode_class4 (h : fieldC w = 0x4) : decode strict w = .sneImm (fieldX w) (fieldNN w) := by
  simp [decode, h]
theorem decode_class5 (h : fieldC w = 0x5) : decode strict w = decode5 strict w := by simp [decode, h]
theorem decode_class6 (h : fieldC w = 0x6) : decode strict w = .ldImm (fieldX w) (fieldNN w) := by
  simp [decode, h]
theorem decode_class7 (h : fieldC w = 0x7) : decode strict w = .addImm (fieldX w) (fieldNN w) := by
  simp [decode, h]
theorem decode_class8 (h : fieldC w = 0x8) : decode strict w = decode8 w := by simp [decode, h]
theorem decode_class9 (h : fieldC w = 0x9) : decode strict w = decode9 strict w := by simp [decode, h]
theorem decode_classA (h : fieldC w = 0xA) : decode strict w = .ldI (fieldNNN w) := by simp [decode, h]
theorem decode_classB (h : fieldC w = 0xB) : decode strict w = .jpV0 (fieldNNN w) := by simp [decode, h]
theorem decode_classC (h : fieldC w = 0xC) : decode strict w = .rnd (fieldX w) (fieldNN w) := by
  simp [decode, h]
theorem decode_classD (h : fieldC w = 0xD) :
    decode strict w = .drw (fieldX w) (fieldY w) (fieldN w) := by simp [decode, h]
theorem decode_classE (h : fieldC w = 0xE) : decode strict w = decodeE w := by simp [decode, h]
theorem decode_classF (h : fieldC w = 0xF) : decode strict w = decodeF w := by simp [decode, h]

/-- A tail that class 0 does not list is a no-op (R54). -/
theorem decode0_undecoded (h : fieldNNN w ∉ class0Low) : decode0 w = .nopSys (fieldNNN w) := by
  obtain ⟨h1, h2⟩ := not_mem_class0Low.mp h
  simp only [decode0, h1, h2, if_false]

/-- A low byte that class E does not list is a no-op (R55). -/
theorem decodeE_undecoded (h : fieldNN w ∉ classELow) : decodeE w = .nopE (fieldX w) (fieldNN w) := by
  obtain ⟨h1, h2⟩ := not_mem_classELow.mp h
  simp only [decodeE, h1, h2, if_false]

/-- A low byte that class F does not list is a no-op (R56). -/
theorem decodeF_undecoded (h : fieldNN w ∉ classFLow) : decodeF w = .nopF (fieldX w) (fieldNN w) := by
  obtain ⟨h1, h2, h3, h4, h5, h6, h7, h8, h9⟩ := not_mem_classFLow.mp h
  simp only [decodeF, h1, h2, h3, h4, h5, h6, h7, h8, h9, if_false]

end

/-! Decoding after encoding. -/

/-- Decoding inverts encoding on well-formed instructions: the format's fields select the class and the
row, and well-formedness keeps a no-op out of every other row (R52-R60). -/
theorem decode_encode {strict : Bool} {i : Instr} (h : i.wf strict = true) :
    decode strict (encode i) = i := by
  cases i with
  | cls | ret => simp [encode, decode_class0, decode0]
  | jp | call | seImm | sneImm | ldImm | addImm | ldI | jpV0 | rnd | drw => simp [encode, decode]
  | seReg => simp [encode, decode_class5, decode5]
  | sneReg => simp [encode, decode_class9, decode9]
  | ldReg | orReg | andReg | xorReg | addReg | sub | shr | subn | shl | nop8XY8 | nop8XY9 | nop8XYA
  | nop8XYB | nop8XYC | nop8XYD | nop8XYF => simp [encode, decode_class8, decode8]
  | skp | sknp => simp [encode, decode_classE, decodeE]
  | ldVxDt | ldVxK | ldDtVx | ldStVx | addI | ldF | ldB | storeRegs | loadRegs =>
    simp [encode, decode_classF, decodeF]
  | nopSys nnn =>
    have hlow : nnn ∉ class0Low := wf_nopSys.mp h
    simp [encode, decode_class0, decode0_undecoded, hlow]
  | nopE x nn =>
    have hlow : nn ∉ classELow := wf_nopE.mp h
    simp [encode, decode_classE, decodeE_undecoded, hlow]
  | nopF x nn =>
    have hlow : nn ∉ classFLow := wf_nopF.mp h
    simp [encode, decode_classF, decodeF_undecoded, hlow]
  | nopStrict5 x y n => simpa [Instr.wf, encode, decode_class5, decode5] using h
  | nopStrict9 x y n => simpa [Instr.wf, encode, decode_class9, decode9] using h

/-- Settles O3: `decode_encode`, on the word and on its two bytes. -/
theorem decodeInvertsEncode : Obligations.DecodeInvertsEncode := by
  intro strict i rest hwf
  have hdecode := decode_encode hwf
  exact ⟨hdecode, by simp [encodeBytes, decodeBytes, hdecode]⟩

/-! Encoding after decoding. -/

/-- The sixteen values of a class or of a low nibble (R52, R53). -/
theorem nibble_cases (c : Nibble) :
    c = 0x0 ∨ c = 0x1 ∨ c = 0x2 ∨ c = 0x3 ∨ c = 0x4 ∨ c = 0x5 ∨ c = 0x6 ∨ c = 0x7 ∨ c = 0x8 ∨ c = 0x9 ∨
      c = 0xA ∨ c = 0xB ∨ c = 0xC ∨ c = 0xD ∨ c = 0xE ∨ c = 0xF := by
  revert c
  decide

theorem encode_decode0 {w : Word} (h : fieldC w = 0x0) : encode (decode0 w) = w := by
  unfold decode0
  split_ifs with hcls hret
  · exact formatA_of_class_low h hcls
  · exact formatA_of_class_low h hret
  · exact formatA_of_class h

/-- The low nibble is lost exactly when it is ignored (R57; log entry 15). -/
theorem encode_decode5 {strict : Bool} {w : Word} (h : fieldC w = 0x5) :
    encode (decode5 strict w) = if strict = false then w &&& 0xFFF0 else w := by
  cases strict with
  | false => simpa [decode5, encode] using formatXYN_zero_of_class h
  | true =>
    by_cases hn : fieldN w = 0#4
    · simpa [decode5, encode, hn] using formatXYN_of_class_low h hn
    · simpa [decode5, encode, hn] using formatXYN_of_class h

theorem encode_decode9 {strict : Bool} {w : Word} (h : fieldC w = 0x9) :
    encode (decode9 strict w) = if strict = false then w &&& 0xFFF0 else w := by
  cases strict with
  | false => simpa [decode9, encode] using formatXYN_zero_of_class h
  | true =>
    by_cases hn : fieldN w = 0#4
    · simpa [decode9, encode, hn] using formatXYN_of_class_low h hn
    · simpa [decode9, encode, hn] using formatXYN_of_class h

theorem encode_decode8 {w : Word} (h : fieldC w = 0x8) : encode (decode8 w) = w := by
  rcases nibble_cases (fieldN w) with hn | hn | hn | hn | hn | hn | hn | hn | hn | hn | hn | hn | hn | hn |
      hn | hn <;>
    simpa [encode, decode8, hn] using formatXYN_of_class_low h hn

theorem encode_decodeE {w : Word} (h : fieldC w = 0xE) : encode (decodeE w) = w := by
  unfold decodeE
  split_ifs with h1 h2
  · exact formatXNN_of_class_low h h1
  · exact formatXNN_of_class_low h h2
  · exact formatXNN_of_class h

theorem encode_decodeF {w : Word} (h : fieldC w = 0xF) : encode (decodeF w) = w := by
  unfold decodeF
  split_ifs with h1 h2 h3 h4 h5 h6 h7 h8 h9
  · exact formatXNN_of_class_low h h1
  · exact formatXNN_of_class_low h h2
  · exact formatXNN_of_class_low h h3
  · exact formatXNN_of_class_low h h4
  · exact formatXNN_of_class_low h h5
  · exact formatXNN_of_class_low h h6
  · exact formatXNN_of_class_low h h7
  · exact formatXNN_of_class_low h h8
  · exact formatXNN_of_class_low h h9
  · exact formatXNN_of_class h

/-- A shift by twelve leaves the class. -/
theorem ushiftRight_twelve (w : Word) : w >>> 12 = (fieldC w).setWidth 16 := by
  ext i hi
  interval_cases i <;> simp [fieldC]

/-- Settles O4: class by class; only 5 and 9 can lose their low nibble. -/
theorem encodeInvertsDecode : Obligations.EncodeInvertsDecode := by
  intro strict w
  rw [ushiftRight_twelve]
  rcases nibble_cases (fieldC w) with h | h | h | h | h | h | h | h | h | h | h | h | h | h | h | h
  · simpa [h, decode_class0] using encode_decode0 h
  · simpa [encode, h, decode_class1] using formatA_of_class h
  · simpa [encode, h, decode_class2] using formatA_of_class h
  · simpa [encode, h, decode_class3] using formatXNN_of_class h
  · simpa [encode, h, decode_class4] using formatXNN_of_class h
  · simpa [h, decode_class5] using encode_decode5 h
  · simpa [encode, h, decode_class6] using formatXNN_of_class h
  · simpa [encode, h, decode_class7] using formatXNN_of_class h
  · simpa [h, decode_class8] using encode_decode8 h
  · simpa [h, decode_class9] using encode_decode9 h
  · simpa [encode, h, decode_classA] using formatA_of_class h
  · simpa [encode, h, decode_classB] using formatA_of_class h
  · simpa [encode, h, decode_classC] using formatXNN_of_class h
  · simpa [encode, h, decode_classD] using formatXYN_of_class h
  · simpa [h, decode_classE] using encode_decodeE h
  · simpa [h, decode_classF] using encode_decodeF h

/-! Every word decodes to a well-formed instruction. -/

theorem wf_decode0 (strict : Bool) (w : Word) : (decode0 w).wf strict = true := by
  unfold decode0
  split_ifs with h1 h2
  · rfl
  · rfl
  · exact wf_nopSys.mpr (not_mem_class0Low.mpr ⟨h1, h2⟩)

theorem wf_decode5 (strict : Bool) (w : Word) : (decode5 strict w).wf strict = true := by
  unfold decode5
  split_ifs with hn
  · exact hn
  · rfl

theorem wf_decode8 (strict : Bool) (w : Word) : (decode8 w).wf strict = true := by
  rcases nibble_cases (fieldN w) with hn | hn | hn | hn | hn | hn | hn | hn | hn | hn | hn | hn | hn | hn |
      hn | hn <;>
    simp [decode8, hn, Instr.wf]

theorem wf_decode9 (strict : Bool) (w : Word) : (decode9 strict w).wf strict = true := by
  unfold decode9
  split_ifs with hn
  · exact hn
  · rfl

theorem wf_decodeE (strict : Bool) (w : Word) : (decodeE w).wf strict = true := by
  unfold decodeE
  split_ifs with h1 h2
  · rfl
  · rfl
  · exact wf_nopE.mpr (not_mem_classELow.mpr ⟨h1, h2⟩)

theorem wf_decodeF (strict : Bool) (w : Word) : (decodeF w).wf strict = true := by
  unfold decodeF
  split_ifs with h1 h2 h3 h4 h5 h6 h7 h8 h9
  iterate 9 · rfl
  · exact wf_nopF.mpr (not_mem_classFLow.mpr ⟨h1, h2, h3, h4, h5, h6, h7, h8, h9⟩)

/-- The decoder gives a no-op only where no other row claims the word (R54-R57). -/
theorem wf_decode (strict : Bool) (w : Word) : (decode strict w).wf strict = true := by
  rcases nibble_cases (fieldC w) with h | h | h | h | h | h | h | h | h | h | h | h | h | h | h | h
  · exact decode_class0 h ▸ wf_decode0 strict w
  · rw [decode_class1 h, Instr.wf]
  · rw [decode_class2 h, Instr.wf]
  · rw [decode_class3 h, Instr.wf]
  · rw [decode_class4 h, Instr.wf]
  · exact decode_class5 h ▸ wf_decode5 strict w
  · rw [decode_class6 h, Instr.wf]
  · rw [decode_class7 h, Instr.wf]
  · exact decode_class8 h ▸ wf_decode8 strict w
  · exact decode_class9 h ▸ wf_decode9 strict w
  · rw [decode_classA h, Instr.wf]
  · rw [decode_classB h, Instr.wf]
  · rw [decode_classC h, Instr.wf]
  · rw [decode_classD h, Instr.wf]
  · exact decode_classE h ▸ wf_decodeE strict w
  · exact decode_classF h ▸ wf_decodeF strict w

/-- Settles O5: `wf_decode`; uniqueness is the round trip through `encode`. -/
theorem decodingIsTotalAndUnambiguous : Obligations.DecodingIsTotalAndUnambiguous := by
  intro strict w
  refine ⟨wf_decode strict w, ?_, fun rest => ?_⟩
  · rintro i hwf rfl
    exact (decode_encode hwf).symm
  · simp [decodeBytes]

/-! Rows of the opcode map by mask and match (R60). -/

/-- The only instruction a word decodes to is the one it encodes. -/
theorem decode_of_encode {strict : Bool} {w : Word} {i : Instr} (hwf : i.wf strict = true)
    (h : encode i = w) : decode strict w = i :=
  h ▸ decode_encode hwf

/-- A mask keeps the bits of a field it covers. -/
theorem extractLsb'_of_mask {w k m : Word} {start len : Nat} {v : BitVec len} (h : w &&& k = m)
    (hk : k.extractLsb' start len = BitVec.allOnes len) (hm : m.extractLsb' start len = v) :
    w.extractLsb' start len = v := by
  rw [← hm, ← h, BitVec.extractLsb'_and, hk, BitVec.and_allOnes]

theorem fieldC_of_mask {w k m : Word} {c : Nibble} (h : w &&& k = m) (hk : fieldC k = 0xF)
    (hm : fieldC m = c) : fieldC w = c := extractLsb'_of_mask h hk hm

theorem fieldN_of_mask {w k m : Word} {n : Nibble} (h : w &&& k = m) (hk : fieldN k = 0xF)
    (hm : fieldN m = n) : fieldN w = n := extractLsb'_of_mask h hk hm

theorem fieldNN_of_mask {w k m : Word} {nn : Byte} (h : w &&& k = m) (hk : fieldNN k = 0xFF)
    (hm : fieldNN m = nn) : fieldNN w = nn := extractLsb'_of_mask h hk hm

section
variable {strict : Bool} {w m : Word} {i : Instr} {c : Nibble}

/-- A row of format A. -/
theorem decode_row_A (hwf : i.wf strict = true) (he : encode i = formatA c (fieldNNN w))
    (h : w &&& 0xF000 = m) (hc : fieldC m = c) : decode strict w = i :=
  decode_of_encode hwf (he.trans (formatA_of_class (fieldC_of_mask h rfl hc)))

/-- A row of format XNN, the byte free. -/
theorem decode_row_XNN (hwf : i.wf strict = true) (he : encode i = formatXNN c (fieldX w) (fieldNN w))
    (h : w &&& 0xF000 = m) (hc : fieldC m = c) : decode strict w = i :=
  decode_of_encode hwf (he.trans (formatXNN_of_class (fieldC_of_mask h rfl hc)))

/-- A row of format XYN, the low nibble free. -/
theorem decode_row_XYN (hwf : i.wf strict = true)
    (he : encode i = formatXYN c (fieldX w) (fieldY w) (fieldN w)) (h : w &&& 0xF000 = m)
    (hc : fieldC m = c) : decode strict w = i :=
  decode_of_encode hwf (he.trans (formatXYN_of_class (fieldC_of_mask h rfl hc)))

/-- A row of format XY: class and low nibble fixed. -/
theorem decode_row_XY {n : Nibble} (hwf : i.wf strict = true)
    (he : encode i = formatXYN c (fieldX w) (fieldY w) n) (h : w &&& 0xF00F = m)
    (hc : fieldC m = c) (hn : fieldN m = n) : decode strict w = i :=
  decode_of_encode hwf
    (he.trans (formatXYN_of_class_low (fieldC_of_mask h rfl hc) (fieldN_of_mask h rfl hn)))

/-- A row of format X: class and low byte fixed. -/
theorem decode_row_X {nn : Byte} (hwf : i.wf strict = true) (he : encode i = formatXNN c (fieldX w) nn)
    (h : w &&& 0xF0FF = m) (hc : fieldC m = c) (hn : fieldNN m = nn) : decode strict w = i :=
  decode_of_encode hwf
    (he.trans (formatXNN_of_class_low (fieldC_of_mask h rfl hc) (fieldNN_of_mask h rfl hn)))

end

/-- The row of 5XYn (R57). -/
theorem decode_row_5 {strict : Bool} {w : Word} (h : w &&& 0xF000 = 0x5000) : decode strict w =
    if strict = true ∧ fieldN w ≠ 0 then .nopStrict5 (fieldX w) (fieldY w) (fieldN w)
    else .seReg (fieldX w) (fieldY w) := by
  simp [decode_class5 (fieldC_of_mask h rfl rfl), decode5]

/-- The row of 9XYn (R57). -/
theorem decode_row_9 {strict : Bool} {w : Word} (h : w &&& 0xF000 = 0x9000) : decode strict w =
    if strict = true ∧ fieldN w ≠ 0 then .nopStrict9 (fieldX w) (fieldY w) (fieldN w)
    else .sneReg (fieldX w) (fieldY w) := by
  simp [decode_class9 (fieldC_of_mask h rfl rfl), decode9]

/-- The row of the SYS space: a word of class 0 is its own tail (R54). -/
theorem decode_row_sys {strict : Bool} {w : Word} (h : w &&& 0xF000 = 0x0000) (hcls : w ≠ 0x00E0)
    (hret : w ≠ 0x00EE) : decode strict w = .nopSys (fieldNNN w) := by
  have hc : fieldC w = 0x0 := fieldC_of_mask h rfl rfl
  have hlow : fieldNNN w ∉ class0Low := not_mem_class0Low.mpr
    ⟨fun e => hcls (formatA_of_class_low hc e).symm, fun e => hret (formatA_of_class_low hc e).symm⟩
  exact decode_row_A (wf_nopSys.mpr hlow) rfl h rfl

/-! Fields as numbers (R49). -/

theorem extractLsb'_eq_of_toNat {w : Word} {start len : Nat} {v : BitVec len}
    (h : v.toNat = w.toNat / 2 ^ start % 2 ^ len) : v = w.extractLsb' start len := by
  apply BitVec.eq_of_toNat_eq
  rw [h, BitVec.extractLsb'_toNat, Nat.shiftRight_eq_div_pow]

/-- Settles O6: each row is the encoding of its instruction. -/
theorem decodeFollowsOpcodeMap : Obligations.DecodeFollowsOpcodeMap := by
  intro strict w x y n nn nnn hx hy hn hnn hnnn
  obtain rfl : x = fieldX w := extractLsb'_eq_of_toNat hx
  obtain rfl : y = fieldY w := extractLsb'_eq_of_toNat hy
  obtain rfl : n = fieldN w := extractLsb'_eq_of_toNat (by simpa using hn)
  obtain rfl : nn = fieldNN w := extractLsb'_eq_of_toNat (by simpa using hnn)
  obtain rfl : nnn = fieldNNN w := extractLsb'_eq_of_toNat (by simpa using hnnn)
  exact
    ⟨fun h => h ▸ rfl, fun h => h ▸ rfl, decode_row_sys, fun h => decode_row_A rfl rfl h rfl,
      fun h => decode_row_A rfl rfl h rfl, fun h => decode_row_XNN rfl rfl h rfl,
      fun h => decode_row_XNN rfl rfl h rfl, decode_row_5,
      fun h => decode_row_XNN rfl rfl h rfl, fun h => decode_row_XNN rfl rfl h rfl,
      fun h => decode_row_XY rfl rfl h rfl rfl, fun h => decode_row_XY rfl rfl h rfl rfl,
      fun h => decode_row_XY rfl rfl h rfl rfl, fun h => decode_row_XY rfl rfl h rfl rfl,
      fun h => decode_row_XY rfl rfl h rfl rfl, fun h => decode_row_XY rfl rfl h rfl rfl,
      fun h => decode_row_XY rfl rfl h rfl rfl, fun h => decode_row_XY rfl rfl h rfl rfl,
      fun h => decode_row_XY rfl rfl h rfl rfl, fun h => decode_row_XY rfl rfl h rfl rfl,
      fun h => decode_row_XY rfl rfl h rfl rfl, fun h => decode_row_XY rfl rfl h rfl rfl,
      fun h => decode_row_XY rfl rfl h rfl rfl, fun h => decode_row_XY rfl rfl h rfl rfl,
      fun h => decode_row_XY rfl rfl h rfl rfl, fun h => decode_row_XY rfl rfl h rfl rfl,
      decode_row_9, fun h => decode_row_A rfl rfl h rfl, fun h => decode_row_A rfl rfl h rfl,
      fun h => decode_row_XNN rfl rfl h rfl, fun h => decode_row_XYN rfl rfl h rfl,
      fun h => decode_row_X rfl rfl h rfl rfl, fun h => decode_row_X rfl rfl h rfl rfl,
      fun h h1 h2 => decode_row_XNN (wf_nopE.mpr (not_mem_classELow.mpr ⟨h1, h2⟩)) rfl h rfl,
      fun h => decode_row_X rfl rfl h rfl rfl, fun h => decode_row_X rfl rfl h rfl rfl,
      fun h => decode_row_X rfl rfl h rfl rfl, fun h => decode_row_X rfl rfl h rfl rfl,
      fun h => decode_row_X rfl rfl h rfl rfl, fun h => decode_row_X rfl rfl h rfl rfl,
      fun h => decode_row_X rfl rfl h rfl rfl, fun h => decode_row_X rfl rfl h rfl rfl,
      fun h => decode_row_X rfl rfl h rfl rfl,
      fun h h1 h2 h3 h4 h5 h6 h7 h8 h9 => decode_row_XNN
        (wf_nopF.mpr (not_mem_classFLow.mpr ⟨h1, h2, h3, h4, h5, h6, h7, h8, h9⟩)) rfl h rfl⟩

/-- Settles O7: the decoder evaluated. -/
theorem sampleWordsDecode : Obligations.SampleWordsDecode := by
  unfold Obligations.SampleWordsDecode
  decide

end Sys2Proof
end

section
/-! The frame of an update: each operation on the state changes only the parts it names, so `SameBut`
passes through it; and how frames weaken. -/

namespace Sys2Proof.Machine

/-! Frames in general. -/

theorem Part.same_refl (s : State) (p : Part) : Part.same s s p := by
  cases p with
  | v | mem | key => exact fun _ => rfl
  | fb => exact fun _ _ => rfl
  | i | pc | stack | dt | st | redraw | fault | out | params | freeCount => rfl

theorem Part.same_symm {s t : State} {p : Part} (h : Part.same s t p) : Part.same t s p := by
  cases p with
  | v | mem | key => exact fun a => (h a).symm
  | fb => exact fun x y => (h x y).symm
  | i | pc | stack | dt | st | redraw | fault | out | params | freeCount => exact Eq.symm h

theorem Part.same_trans {s t u : State} {p : Part} (h : Part.same s t p) (h' : Part.same t u p) :
    Part.same s u p := by
  cases p with
  | v | mem | key => exact fun a => (h' a).trans (h a)
  | fb => exact fun x y => (h' x y).trans (h x y)
  | i | pc | stack | dt | st | redraw | fault | out | params | freeCount => exact Eq.trans h' h

@[simp] theorem sameBut_refl (l : List Part) (s : State) : SameBut l s s :=
  fun p _ => Part.same_refl s p

/-- A longer list of changed parts says less. -/
theorem SameBut.mono {l l' : List Part} {s t : State} (h : SameBut l s t) (hl : l ⊆ l') :
    SameBut l' s t :=
  fun p hp => h p fun hp' => hp (hl hp')

/-- From `t` to `u` only listed parts change, so a frame from `s` reaches `u` when it reaches `t`. -/
theorem SameBut.iff_of_subset {l l' : List Part} {s t u : State} (h : SameBut l' t u) (hl : l' ⊆ l) :
    SameBut l s u ↔ SameBut l s t := by
  have htu := h.mono hl
  exact ⟨fun hu p hp => Part.same_trans (hu p hp) (Part.same_symm (htu p hp)),
    fun ht p hp => Part.same_trans (ht p hp) (htu p hp)⟩

/-- The same for an update of one part. -/
theorem SameBut.iff_of_part {l : List Part} {s t u : State} {q : Part} (hq : q ∈ l)
    (h : ∀ p, p ≠ q → Part.same t u p) : SameBut l s u ↔ SameBut l s t :=
  SameBut.iff_of_subset (l' := [q]) (fun p hp => h p (by simpa using hp)) (by simpa using hq)

/-! One lemma per update. -/

section
variable {l : List Part} {s t : State}

@[simp] theorem sameBut_setMem (h : .mem ∈ l) (m : Memory) :
    SameBut l s (t.setMem m) ↔ SameBut l s t :=
  SameBut.iff_of_part h fun p hp => by cases p <;> simp [Part.same] at hp ⊢

@[simp] theorem sameBut_setV (h : .v ∈ l) (v : Vector Byte 16) :
    SameBut l s (t.setV v) ↔ SameBut l s t :=
  SameBut.iff_of_part h fun p hp => by cases p <;> simp [Part.same] at hp ⊢

@[simp] theorem sameBut_setI (h : .i ∈ l) (w : Word) :
    SameBut l s (t.setI w) ↔ SameBut l s t :=
  SameBut.iff_of_part h fun p hp => by cases p <;> simp [Part.same] at hp ⊢

@[simp] theorem sameBut_setPc_iff (h : .pc ∈ l) (w : Word) :
    SameBut l s (t.setPc w) ↔ SameBut l s t :=
  SameBut.iff_of_part h fun p hp => by cases p <;> simp [Part.same] at hp ⊢

@[simp] theorem sameBut_setStack (h : .stack ∈ l) (a : List Word) :
    SameBut l s (t.setStack a) ↔ SameBut l s t :=
  SameBut.iff_of_part h fun p hp => by cases p <;> simp [Part.same] at hp ⊢

@[simp] theorem sameBut_setDt (h : .dt ∈ l) (b : Byte) :
    SameBut l s (t.setDt b) ↔ SameBut l s t :=
  SameBut.iff_of_part h fun p hp => by cases p <;> simp [Part.same] at hp ⊢

@[simp] theorem sameBut_setSt (h : .st ∈ l) (b : Byte) :
    SameBut l s (t.setSt b) ↔ SameBut l s t :=
  SameBut.iff_of_part h fun p hp => by cases p <;> simp [Part.same] at hp ⊢

@[simp] theorem sameBut_setKeys (h : .key ∈ l) (k : Vector Bool 16) :
    SameBut l s (t.setKeys k) ↔ SameBut l s t :=
  SameBut.iff_of_part h fun p hp => by cases p <;> simp [Part.same] at hp ⊢

@[simp] theorem sameBut_setFb (h : .fb ∈ l) (f : Frame) :
    SameBut l s (t.setFb f) ↔ SameBut l s t :=
  SameBut.iff_of_part h fun p hp => by cases p <;> simp [Part.same] at hp ⊢

@[simp] theorem sameBut_setRedraw (h : .redraw ∈ l) (b : Bool) :
    SameBut l s (t.setRedraw b) ↔ SameBut l s t :=
  SameBut.iff_of_part h fun p hp => by cases p <;> simp [Part.same] at hp ⊢

@[simp] theorem sameBut_setFreeCount (h : .freeCount ∈ l) (n : Nat) :
    SameBut l s (t.setFreeCount n) ↔ SameBut l s t :=
  SameBut.iff_of_part h fun p hp => by cases p <;> simp [Part.same] at hp ⊢

@[simp] theorem sameBut_writeV (h : .v ∈ l) (x : Nibble) (b : Byte) :
    SameBut l s (t.writeV x b) ↔ SameBut l s t :=
  sameBut_setV h _

@[simp] theorem sameBut_writeRegs (h : .v ∈ l) (k : Nat) (bs : List Byte) :
    SameBut l s (t.writeRegs k bs) ↔ SameBut l s t := by
  rw [writeRegs_eq_setV, sameBut_setV h]

/-- The tick changes the timers and the returned result (R68). -/
theorem sameBut_timerTick (t : State) : SameBut [.dt, .st, .out] t t.timerTick := by
  intro p hp
  cases p <;> simp [Part.same] at hp ⊢

/-- What a raised fault leaves (R125, R126). -/
theorem faultLeaves_takeFault (f : Fault) (s : State) : FaultLeaves f s (s.takeFault f) := by
  refine ⟨rfl, rfl, fun p hp => ?_⟩
  cases p <;> simp [Part.same] at hp ⊢

end

end Sys2Proof.Machine
end

section
/-! Proofs about single instructions (40_cycle R70, 41_arithmetic R79-R81, 42_control_flow R90-R97,
43_random R100, 45_timers_keys_memory R107-R115): what the operands are as numbers, the shapes of effect,
and the obligations from these. -/

namespace Sys2Proof.Machine

/-! Operands as numbers. -/

@[simp] theorem zextAddr_toNat (nnn : Addr12) : (zextAddr nnn).toNat = nnn.toNat := by
  rw [zextAddr, BitVec.toNat_setWidth]
  omega

@[simp] theorem zextByte_toNat (b : Byte) : (zextByte b).toNat = b.toNat := by
  rw [zextByte, BitVec.toNat_setWidth]
  omega

/-- A timer after the tick (R68). -/
theorem tick_toNat (b : Byte) : (if b = 0 then 0 else b - 1).toNat = b.toNat - 1 := by
  by_cases h : b = 0
  · simp [h]
  · rw [if_neg h]
    bv_omega

theorem timerTick_dt_toNat (s : State) : s.timerTick.dt.toNat = s.dt.toNat - 1 := tick_toNat s.dt

theorem timerTick_st_toNat (s : State) : s.timerTick.st.toNat = s.st.toNat - 1 := tick_toNat s.st

/-- The key of a value is its low nibble. -/
theorem extractLsb'_low_nibble {v : Byte} {k : Nibble} (h : k.toNat = v.toNat % 16) :
    v.extractLsb' 0 4 = k := by
  apply BitVec.eq_of_toNat_eq
  simp [h]

/-- The lowest pressed key is the one FX0A finds (R111, D4). -/
theorem lowestPressed_eq_some {s : State} {k : Nibble} (hk : s.pressed k = true)
    (hlow : ∀ j : Nibble, j.toNat < k.toNat → s.pressed j = false) : s.lowestPressed = some k := by
  have hfind : (List.range 16).find? (s.pressed ∘ BitVec.ofNat 4) = some k.toNat := by
    refine List.find?_range_eq_some.mpr ⟨by simpa using hk, List.mem_range.mpr k.isLt, fun j hj => ?_⟩
    have hj16 : j < 16 := hj.trans k.isLt
    simp [hlow (BitVec.ofNat 4 j) (by simpa [Nat.mod_eq_of_lt hj16] using hj)]
  rw [State.lowestPressed, List.find?_map, hfind]
  simp

/-! Shapes of effect. -/

/-- An instruction answers one state. -/
theorem eq_of_exec_next {i : Instr} {s t u : State} (h : exec i s = .next t) (h' : exec i s = .next u) :
    t = u :=
  Host.Outcome.next.inj (h.symm.trans h')

/-- An instruction that is the no-op (R70). -/
theorem onlyAdvances_of_exec {i : Instr} {s : State} (h : exec i s = noOp s) : OnlyAdvances i s :=
  goesTo_of_exec h

/-- An instruction that is a jump to `w` (R89). -/
theorem goesTo_of_exec_jump {i : Instr} {s : State} {w : Word} (h : exec i s = finish (jumpPre w) s) :
    GoesTo i s w :=
  jumpPre_add_two w ▸ goesTo_of_exec h

/-- An instruction that raises a fault (R125). -/
theorem endsIn_of_exec {i : Instr} {s : State} {f : Fault} (h : exec i s = raise f s) : EndsIn i s f :=
  ⟨_, h, faultLeaves_takeFault f s⟩

/-- Settles O20: each of the twelve is `noOp`. -/
theorem noOpsOnlyAdvance : Obligations.NoOpsOnlyAdvance := fun _ _ _ _ _ _ =>
  ⟨onlyAdvances_of_exec rfl, onlyAdvances_of_exec rfl, onlyAdvances_of_exec rfl, onlyAdvances_of_exec rfl,
    onlyAdvances_of_exec rfl, onlyAdvances_of_exec rfl, onlyAdvances_of_exec rfl, onlyAdvances_of_exec rfl,
    onlyAdvances_of_exec rfl, onlyAdvances_of_exec rfl, onlyAdvances_of_exec rfl, onlyAdvances_of_exec rfl⟩

/-- Settles O23: each is one register write, of the bitwise operation. -/
theorem bitwiseOperations : Obligations.BitwiseOperations := fun s x y =>
  ⟨s.readV x ||| s.readV y, s.readV x &&& s.readV y, s.readV x ^^^ s.readV y,
    fun _ _ => BitVec.getLsbD_or, fun _ _ => BitVec.getLsbD_and, fun _ _ => BitVec.getLsbD_xor,
    writesOnly_of_exec rfl, writesOnly_of_exec rfl, writesOnly_of_exec rfl⟩

/-! Jumps, calls and returns. -/

/-- Settles O27: a jump to the zero-extended address. -/
theorem jumpLandsOnTarget : Obligations.JumpLandsOnTarget := fun _ nnn =>
  ⟨zextAddr nnn, zextAddr_toNat nnn, goesTo_of_exec_jump rfl⟩

/-- Settles O33: the sum of a 12-bit address and a byte does not wrap at 16 bits. -/
theorem jumpWithOffsetLands : Obligations.JumpWithOffsetLands := fun s nnn =>
  ⟨zextAddr nnn + zextByte (s.readV 0),
    by rw [BitVec.toNat_add, zextAddr_toNat, zextByte_toNat]; omega, goesTo_of_exec_jump rfl⟩

/-- A call below the capacity (R91). -/
theorem exec_call_below {s : State} (nnn : Addr12) (h : s.sp < 16) : exec (.call nnn) s =
    .next ((s.setStack (s.pc :: s.stack)).setPc (callPre s.params.callLanding nnn + 2)) :=
  if_neg (Nat.not_le.mpr h)

/-- A call at the capacity (R120). -/
theorem exec_call_full {s : State} (nnn : Addr12) (h : 16 ≤ s.sp) :
    exec (.call nnn) s = raise .stackOverflow s :=
  if_pos h

/-- A return with an address to pop (R92). -/
theorem exec_ret_cons {s : State} {a : Word} {rest : List Word} (h : s.stack = a :: rest) :
    exec .ret s = .next ((s.setStack rest).setPc (a + 2)) := by
  simp [exec, execRet, h]

/-- A return from an empty stack (R121). -/
theorem exec_ret_nil {s : State} (h : s.stack = []) : exec .ret s = raise .stackUnderflow s := by
  simp [exec, execRet, h]

/-- Where a call lands under `target` (R91, D2). -/
theorem callPre_target_toNat (nnn : Addr12) : (callPre .target nnn + 2).toNat = nnn.toNat := by
  simp [callPre]

/-- Where a call lands under `target_plus_2` (R91, D2). -/
theorem callPre_targetPlus2_toNat (nnn : Addr12) :
    (callPre .targetPlus2 nnn + 2).toNat = nnn.toNat + 2 := by
  have hlt := nnn.isLt
  have htwo : (2 : Word).toNat = 2 := rfl
  rw [callPre, BitVec.toNat_add, zextAddr_toNat, htwo]
  omega

/-- Settles O28: `exec_call_below` and `exec_call_full`. -/
theorem callPushesAndLands : Obligations.CallPushesAndLands := by
  intro s nnn
  refine ⟨fun hsp => ⟨_, exec_call_below nnn hsp, rfl, rfl, fun hl => ?_, fun hl => ?_, by simp⟩,
    fun hsp => endsIn_of_exec (exec_call_full nnn hsp)⟩
  · rw [setPc_pc, hl, callPre_target_toNat]
  · rw [setPc_pc, hl, callPre_targetPlus2_toNat]

/-- Settles O29: `exec_ret_cons` and `exec_ret_nil`. -/
theorem returnPops : Obligations.ReturnPops := fun s =>
  ⟨fun a _ hs => ⟨_, exec_ret_cons hs, rfl, BitVec.toNat_add a 2, by simp⟩,
    fun hsp => endsIn_of_exec (exec_ret_nil (List.length_eq_zero_iff.mp hsp))⟩

/-- Settles O30: the return pops what the call pushed. -/
theorem callThenReturnComesBack : Obligations.CallThenReturnComesBack := by
  intro s t nnn hsp ht
  obtain rfl := eq_of_exec_next (exec_call_below nnn hsp) ht
  exact ⟨_, exec_ret_cons rfl, rfl, sameBut_setPc s _⟩

/-- Settles O32: each is one skip, on equality and on its negation. -/
theorem skipsOnRegisters : Obligations.SkipsOnRegisters := fun _ _ _ =>
  ⟨goesTo_of_exec_skip_beq rfl, goesTo_of_exec_skip_bne rfl⟩

/-! Random, index register, timers. -/

/-- Settles O34: one register write, of the free byte and the mask. -/
theorem randomByteIsMasked : Obligations.RandomByteIsMasked := by
  intro s x nn
  refine ⟨_, rfl, by simp, fun k hk => ?_, rfl, fun z hz => by simp [hz], rfl, by simp⟩
  simp [hk]

/-- Settles O41: the three values as numbers. -/
theorem indexRegisterWriters : Obligations.IndexRegisterWriters := by
  intro s x nnn
  refine ⟨⟨_, rfl, zextAddr_toNat nnn, rfl, by simp⟩, ⟨_, rfl, ?_, rfl, by simp⟩, ⟨_, rfl, ?_, rfl, by simp⟩⟩
  · simp [BitVec.toNat_add]
  · have hv := (s.readV x).isLt
    have hfive : (5 : Word).toNat = 5 := rfl
    rw [setPc_i, setI_i, BitVec.toNat_mul, zextByte_toNat, hfive]
    omega

/-- Settles O44: the copy and the write precede the tick, which `timerTick_dt_toNat` counts. -/
theorem delayTimerCopies : Obligations.DelayTimerCopies := by
  intro s x
  refine ⟨writesOnly_of_exec rfl, _, rfl, rfl, rfl, by simp, fun hf => ?_⟩
  rw [endCycle_of_none (by simpa using hf)]
  exact timerTick_dt_toNat _

/-- Settles O45: the tick after the write gives the count and the tone. -/
theorem soundTimerSet : Obligations.SoundTimerSet := by
  intro s x
  refine ⟨_, rfl, rfl, rfl, by simp, fun hf => ?_⟩
  rw [endCycle_of_none (by simpa using hf)]
  refine ⟨timerTick_st_toNat _, congrArg (some ∘ CycleResult.ok) ?_⟩
  exact decide_eq_decide.mpr BitVec.toNat_eq

/-! Keys. -/

section
variable {s : State} {x k : Nibble} {f : Fault}

theorem exec_skp_ok (h : keyIndex s.params.keyIndexPolicy (s.readV x) = .ok k) :
    exec (.skp x) s = finish (s.skipPre (s.pressed k)) s := by
  simp only [exec, execSkp, h]

theorem exec_sknp_ok (h : keyIndex s.params.keyIndexPolicy (s.readV x) = .ok k) :
    exec (.sknp x) s = finish (s.skipPre (!s.pressed k)) s := by
  simp only [exec, execSknp, h]

theorem exec_skp_error (h : keyIndex s.params.keyIndexPolicy (s.readV x) = .error f) :
    exec (.skp x) s = raise f s := by
  simp only [exec, execSkp, h]

theorem exec_sknp_error (h : keyIndex s.params.keyIndexPolicy (s.readV x) = .error f) :
    exec (.sknp x) s = raise f s := by
  simp only [exec, execSknp, h]

/-- With a key named, EX9E and EXA1 are the two skips on it (R108, R109). -/
theorem skips_of_keyIndex_ok (h : keyIndex s.params.keyIndexPolicy (s.readV x) = .ok k) :
    GoesTo (.skp x) s (if s.pressed k = true then s.pc + 4 else s.pc + 2) ∧
      GoesTo (.sknp x) s (if s.pressed k = true then s.pc + 2 else s.pc + 4) := by
  refine ⟨goesTo_of_exec_skip (exec_skp_ok h), ?_⟩
  have hskip := goesTo_of_exec_skip (exec_sknp_ok h)
  cases hk : s.pressed k <;> simpa [hk] using hskip

end

/-- Settles O42: by what `keyIndex` gives. -/
theorem skipsOnKey : Obligations.SkipsOnKey := by
  intro s x k hk
  have hlow := extractLsb'_low_nibble hk
  refine ⟨fun h => skips_of_keyIndex_ok ?_, fun hlarge hpolicy => ?_⟩
  · rw [← hlow]
    rcases h with hsmall | hpolicy
    · exact keyIndex_small _ hsmall
    · rw [hpolicy, keyIndex_lowNibble]
  · have herror : keyIndex s.params.keyIndexPolicy (s.readV x) = .error (.keyIndexOutOfRange (s.readV x)) := by
      rw [hpolicy, keyIndex_large_fault hlarge]
    exact ⟨endsIn_of_exec (exec_skp_error herror), endsIn_of_exec (exec_sknp_error herror)⟩

theorem setPc_self {s : State} {w : Word} (h : w = s.pc) : s.setPc w = s := by
  rw [h]
  rfl

/-- With no key pressed FX0A steps PC back (R111). -/
theorem exec_ldVxK_none {s : State} {x : Nibble} (h : s.lowestPressed = none) :
    exec (.ldVxK x) s = finish (s.pc - 2) s := by
  simp only [exec, execLdVxK, h]

/-- The step back and the PC step cancel (R111). -/
theorem finish_pc_sub_two (s : State) : finish (s.pc - 2) s = .next s :=
  congrArg _ (setPc_self (BitVec.sub_add_cancel s.pc 2))

/-- With a key pressed FX0A writes its value (R111). -/
theorem exec_ldVxK_some {s : State} {x k : Nibble} (h : s.lowestPressed = some k) :
    exec (.ldVxK x) s = finish s.pc (s.writeV x (waitkeyByte s.params.waitkeyValue k)) := by
  simp only [exec, execLdVxK, h]

/-- A cycle whose instruction changes nothing changes the timers and the returned result alone (R68). -/
theorem step_of_exec_self {s : State} {op : Word} (hfault : s.fault = none) (hfetch : s.fetch = .ok op)
    (h : exec (decode s.params.skipRegStrict op) s = .next s) :
    ∃ t, step s = .next t ∧ t.pc = s.pc ∧ t.dt.toNat = s.dt.toNat - 1 ∧ t.st.toNat = s.st.toNat - 1 ∧
      SameBut [.dt, .st, .out] s t := by
  refine ⟨s.timerTick, ?_, rfl, timerTick_dt_toNat s, timerTick_st_toNat s, sameBut_timerTick s⟩
  simp [step, hfault, hfetch, h, endCycle_of_none hfault]

/-- Settles O43: `exec_ldVxK_none`, its cycle, and `exec_ldVxK_some` of the lowest key. -/
theorem waitForKey : Obligations.WaitForKey := by
  intro s x
  refine ⟨fun hnone => ?_, fun k hk hlow => ?_⟩
  · have hexec := (exec_ldVxK_none (x := x) (lowestPressed_none.mpr hnone)).trans (finish_pc_sub_two s)
    refine ⟨⟨s, hexec, rfl, by simp⟩, fun hfault hfetch => step_of_exec_self hfault hfetch ?_⟩
    rwa [decode_encode rfl]
  · refine ⟨waitkeyByte s.params.waitkeyValue k, fun hw => ?_, fun hw => ?_,
      writesOnly_of_exec (exec_ldVxK_some (lowestPressed_eq_some hk hlow))⟩
    · simp [hw, waitkeyByte]
    · rw [hw, waitkeyByte, BitVec.toNat_setWidth]
      omega

/-! A jump to itself. -/

/-- An address of memory is its own low twelve bits. -/
theorem zextAddr_setWidth {w : Word} (h : w.toNat < 4096) : zextAddr (w.setWidth 12) = w := by
  apply BitVec.eq_of_toNat_eq
  simp [Nat.mod_eq_of_lt h]

/-- A fetch that does not fault was of an address up to 0xFFE (R41). -/
theorem pc_le_of_fetch_ok {s : State} {op : Word} (h : s.fetch = .ok op) : s.pc.toNat ≤ 0xFFE := by
  by_contra hpc
  rw [fetch_outside (by omega)] at h
  cases h

/-- Settles O51: the word is that of a jump to PC, which leaves the state as it is. -/
theorem selfLoopOnlyTicks : Obligations.SelfLoopOnlyTicks := by
  intro s hfault hfetch
  have hpc := pc_le_of_fetch_ok hfetch
  have hzext : zextAddr (s.pc.setWidth 12) = s.pc := zextAddr_setWidth (by omega)
  have henc : encode (.jp (s.pc.setWidth 12)) = 0x1000 ||| s.pc := congrArg (0x1000 ||| ·) hzext
  have hexec : exec (.jp (s.pc.setWidth 12)) s = .next s := by
    simp only [exec, execJp, finish_eq, hzext]
    exact congrArg _ (setPc_self (jumpPre_add_two s.pc))
  obtain ⟨t, hstep, -, ht⟩ := step_of_exec_self hfault hfetch (by rwa [decode_of_encode rfl henc])
  exact ⟨t, hstep, ht⟩

end Sys2Proof.Machine
end

section
/-! Proofs about memory (20_memory, 45_timers_keys_memory R116-R118, 60_exceptions R136, 70_reset R139): the
canonical form is unique, what the transfers between registers and memory do, and the obligations from these. -/

namespace Sys2Proof.Machine

/-! The canonical form. -/

theorem Memory.wfFrom_cons {lo a : Nat} {b : Byte} {rest : Memory} :
    Memory.wfFrom lo ((a, b) :: rest) = true ↔
      lo ≤ a ∧ a < memorySize ∧ b ≠ Memory.background a ∧ Memory.wfFrom (a + 1) rest = true := by
  simp only [Memory.wfFrom, Bool.and_eq_true, decide_eq_true_eq, and_assoc]

theorem Memory.read_cons_self (a : Nat) (b : Byte) (rest : Memory) :
    Memory.read ((a, b) :: rest) a = b := if_pos rfl

theorem Memory.read_cons_ne {a c : Nat} (b : Byte) (rest : Memory) (h : c ≠ a) :
    Memory.read ((a, b) :: rest) c = rest.read c := if_neg h

/-- A first cell at `a` cannot be missing: it reads as no unlisted address does. -/
theorem Memory.read_head_ne {lo a : Nat} {b : Byte} {rest n : Memory}
    (hm : Memory.wfFrom lo ((a, b) :: rest) = true) (hn : Memory.wfFrom (a + 1) n = true) :
    Memory.read ((a, b) :: rest) a ≠ n.read a := by
  obtain ⟨-, -, hb, -⟩ := Memory.wfFrom_cons.mp hm
  rwa [Memory.read_cons_self, Memory.read_below (Nat.lt_succ_self a) hn]

/-- Canonical memories that read the same are the same list: the first cells are at the same address, for the
lower of two could not be missing, and hold the same byte; the rest by induction. -/
theorem Memory.eq_of_read_eq {m n : Memory} {lo : Nat} (hm : Memory.wfFrom lo m = true)
    (hn : Memory.wfFrom lo n = true) (h : ∀ a, a < memorySize → m.read a = n.read a) : m = n := by
  induction m generalizing n lo with
  | nil =>
    cases n with
    | nil => rfl
    | cons cell rest =>
      obtain ⟨c, d⟩ := cell
      obtain ⟨-, hc, -, -⟩ := Memory.wfFrom_cons.mp hn
      exact absurd (h c hc).symm (Memory.read_head_ne hn rfl)
  | cons cell rest ih =>
    obtain ⟨a, b⟩ := cell
    obtain ⟨hlo, ha, hb, hrest⟩ := Memory.wfFrom_cons.mp hm
    cases n with
    | nil => exact absurd (h a ha) (Memory.read_head_ne hm rfl)
    | cons cell' rest' =>
      obtain ⟨c, d⟩ := cell'
      obtain ⟨-, hc, hd, hrest'⟩ := Memory.wfFrom_cons.mp hn
      rcases Nat.lt_trichotomy a c with hlt | rfl | hgt
      · exact absurd (h a ha) (Memory.read_head_ne hm (Memory.wfFrom_cons.mpr ⟨hlt, hc, hd, hrest'⟩))
      · have hbd : b = d := by simpa only [Memory.read_cons_self] using h a ha
        have htail : rest = rest' := ih hrest hrest' fun e he => by
          by_cases hea : e = a
          · rw [hea, Memory.read_below (Nat.lt_succ_self a) hrest,
              Memory.read_below (Nat.lt_succ_self a) hrest']
          · simpa only [Memory.read_cons_ne _ _ hea] using h e he
        rw [hbd, htail]
      · exact absurd (h c hc).symm (Memory.read_head_ne hn (Memory.wfFrom_cons.mpr ⟨hgt, ha, hb, hrest⟩))

/-- Settles O49: `Memory.eq_of_read_eq`. -/
theorem canonicalMemoriesEqual : Obligations.CanonicalMemoriesEqual := fun _ _ hm hn h =>
  Memory.eq_of_read_eq hm hn fun a ha => h a (Nat.le_of_lt_succ ha)

/-! Written lists. -/

/-- Byte `j` of a list written from `a` on is read at `a + j`. -/
theorem Memory.read_writeList_getElem {m : Memory} (hm : m.wf = true) {a : Nat} {bs : List Byte}
    (h : a + bs.length ≤ 0x1000) {j : Nat} (hj : j < bs.length) :
    (m.writeList a bs).read (a + j) = bs[j] := by
  have hin : a ≤ a + j ∧ a + j - a < bs.length := ⟨Nat.le_add_right a j, by omega⟩
  rw [Memory.read_writeList hm h, dif_pos hin]
  simp only [Nat.add_sub_cancel_left]

/-- Settles O2: the font is the list written; the other fields are those of reset. -/
theorem initResetsEveryField : Obligations.InitResetsEveryField := by
  intro s
  have hlen : s.params.font.toList.length = 80 := by simp
  refine ⟨fun a ha => ?_, fun a ha hmax => ?_, fun z => ?_, fun k => ?_, rfl, rfl, rfl, rfl, rfl,
    fun x y => pixel_blank x y, rfl, rfl⟩
  · have hread := Memory.read_writeList_getElem Memory.wf_nil (a := 0) (j := a)
      (bs := s.params.font.toList) (by rw [hlen]; decide) (by omega)
    simpa using hread
  · rw [init_mem, Memory.read_writeList_outside _ _ (by omega)]
    exact dif_neg (by omega)
  · simp [State.readV]
  · simp [State.pressed]

/-- Settles O1: reset lists no cell, so every byte is that of `Memory.background`. -/
theorem resetGivesInitialValues : Obligations.ResetGivesInitialValues := by
  refine ⟨fun a ha => dif_pos ha, fun a ha hmax => dif_neg (by omega), fun z => ?_, rfl, rfl, rfl, rfl,
    rfl, rfl, fun k => ?_, fun x y => pixel_blank x y, rfl, rfl⟩
  · simp [State.readV, State.reset]
  · simp [State.pressed, State.reset]

/-- Settles O54: the length check, then `writeList` at 0x200. -/
theorem loadCopiesProgram : Obligations.LoadCopiesProgram := by
  intro s bytes hmem
  refine ⟨fun hlen => ⟨_, if_neg (Nat.not_lt.mpr hlen), fun j hj => ?_, fun a ha => ?_, by simp⟩,
    fun hlen => if_pos hlen⟩
  · exact Memory.read_writeList_getElem hmem (by simp only [programBase]; omega) hj
  · exact Memory.read_writeList_outside _ _ ha

/-! Stores of a list of bytes (FX33, FX55). -/

/-- A store that stays in memory. -/
theorem finishOr_memWriteAll_inside {s : State} {bs : List Byte} (h : s.i.toNat + bs.length ≤ 0x1000) :
    s.finishOr (s.memWriteAll s.i.toNat bs) =
      .next ((s.setMem (s.mem.writeList s.i.toNat bs)).setPc (s.pc + 2)) := by
  rw [memWriteAll_inside h, finishOr_ok]

/-- A store that runs out of memory. -/
theorem finishOr_memWriteAll_outside {s : State} {bs : List Byte} (hne : bs ≠ [])
    (h : 0x1000 < s.i.toNat + bs.length) :
    s.finishOr (s.memWriteAll s.i.toNat bs) = raise (.memoryOutOfBounds (firstOutside s)) s := by
  rw [memWriteAll_outside hne h]
  rfl

@[simp] theorem bcdDigits_length (v : Byte) : (bcdDigits v).length = 3 := rfl

/-- Settles O46: a store of the three digits. -/
theorem bcdStore : Obligations.BcdStore := by
  intro s x hmem
  unfold transferFits
  refine ⟨fun hfit => ?_, fun hfit => ?_⟩
  · have hin : s.i.toNat + (bcdDigits (s.readV x)).length ≤ 0x1000 := by rw [bcdDigits_length]; omega
    have hread (j : Nat) (hj : j < 3) := Memory.read_writeList_getElem hmem hin (j := j) hj
    refine ⟨_, finishOr_memWriteAll_inside hin, congrArg BitVec.toNat (hread 0 (by decide)),
      congrArg BitVec.toNat (hread 1 (by decide)), congrArg BitVec.toNat (hread 2 (by decide)),
      fun a ha => ?_, rfl, by simp⟩
    exact Memory.read_writeList_outside _ _ (by rw [bcdDigits_length]; omega)
  · exact endsIn_of_exec (finishOr_memWriteAll_outside (List.cons_ne_nil _ _)
      (by rw [bcdDigits_length]; omega))

/-- Register `z` is byte `z` of a block store from `x` on. -/
theorem regsUpTo_getElem_toNat (s : State) {x z : Nibble} (h : z.toNat < (s.regsUpTo x).length) :
    (s.regsUpTo x)[z.toNat] = s.readV z := by
  rw [regsUpTo_getElem, BitVec.ofNat_toNat, BitVec.setWidth_eq]

theorem regsUpTo_ne_nil (s : State) (x : Nibble) : s.regsUpTo x ≠ [] :=
  List.ne_nil_of_length_pos (by rw [regsUpTo_length]; omega)

/-- A block store that stays in memory (R117). -/
theorem exec_storeRegs_fits {s : State} {x : Nibble} (h : transferFits s x.toNat) : exec (.storeRegs x) s =
    .next ((s.setMem (s.mem.writeList s.i.toNat (s.regsUpTo x))).setPc (s.pc + 2)) :=
  finishOr_memWriteAll_inside (by rw [regsUpTo_length]; unfold transferFits at h; omega)

/-- A block store that runs out of memory (R122). -/
theorem exec_storeRegs_outside {s : State} {x : Nibble} (h : ¬ transferFits s x.toNat) :
    exec (.storeRegs x) s = raise (.memoryOutOfBounds (firstOutside s)) s :=
  finishOr_memWriteAll_outside (regsUpTo_ne_nil s x) (by
    rw [regsUpTo_length]; unfold transferFits at h; omega)

/-- After a block store the byte at I + z is Vz (R117). -/
theorem read_storeRegs {s : State} {x z : Nibble} (hmem : s.mem.wf = true) (h : transferFits s x.toNat)
    (hz : z.toNat ≤ x.toNat) :
    (s.mem.writeList s.i.toNat (s.regsUpTo x)).read (s.i.toNat + z.toNat) = s.readV z := by
  unfold transferFits at h
  rw [Memory.read_writeList_getElem hmem (by rw [regsUpTo_length]; omega) (by rw [regsUpTo_length]; omega),
    regsUpTo_getElem_toNat]

/-- Settles O47: a store of the registers up to Vx. -/
theorem blockStore : Obligations.BlockStore := by
  intro s x hmem
  refine ⟨fun hfit => ⟨_, exec_storeRegs_fits hfit, fun z hz => read_storeRegs hmem hfit hz,
    fun a ha => ?_, rfl, by simp⟩, fun hfit => endsIn_of_exec (exec_storeRegs_outside hfit)⟩
  exact Memory.read_writeList_outside _ _ (by rw [regsUpTo_length]; omega)

/-- Settles O50: the two bytes fetched are V0 and V1, the first two stored. -/
theorem storeIsSeenByNextFetch : Obligations.StoreIsSeenByNextFetch := by
  intro s t x hmem hfault hexec htfault hx hi
  by_cases hfit : transferFits s x.toNat
  · obtain rfl := eq_of_exec_next (exec_storeRegs_fits hfit) hexec
    have h0 := read_storeRegs (z := 0) hmem hfit (Nat.zero_le _)
    have h1 := read_storeRegs (z := 1) hmem hfit hx
    refine ⟨_, fetch_inside ?_, ?_, ?_⟩
    · unfold transferFits at hfit
      simp only [setPc_pc, ← hi]
      omega
    · rw [highByte_wordOfBytes, setPc_pc, ← hi]
      exact h0
    · rw [lowByte_wordOfBytes, setPc_pc, ← hi]
      exact h1
  · obtain rfl := eq_of_exec_next (exec_storeRegs_outside hfit) hexec
    cases htfault

/-! The block load (FX65). -/

/-- A block load that stays in memory (R118). -/
theorem exec_loadRegs_fits {s : State} {x : Nibble} (h : transferFits s x.toNat) : exec (.loadRegs x) s =
    .next ((s.writeRegs 0 ((List.range' s.i.toNat (x.toNat + 1)).map s.mem.read)).setPc (s.pc + 2)) := by
  unfold transferFits at h
  simp only [exec, execLoadRegs]
  rw [memReadAll_inside (by omega)]
  rfl

/-- A block load that runs out of memory (R122). -/
theorem exec_loadRegs_outside {s : State} {x : Nibble} (h : ¬ transferFits s x.toNat) :
    exec (.loadRegs x) s = raise (.memoryOutOfBounds (firstOutside s)) s := by
  unfold transferFits at h
  simp only [exec, execLoadRegs]
  rw [memReadAll_outside (by omega) (by omega)]
  rfl

/-- A register after a block load up to Vx (R118). -/
theorem readV_loadRegs (s : State) (x z : Nibble) :
    (s.writeRegs 0 ((List.range' s.i.toNat (x.toNat + 1)).map s.mem.read)).readV z =
      if z.toNat ≤ x.toNat then s.mem.read (s.i.toNat + z.toNat) else s.readV z := by
  have hx := x.isLt
  rw [readV_writeRegs _ _ _ (by simp; omega)]
  by_cases hz : z.toNat ≤ x.toNat
  · simp [hz, Nat.lt_succ_of_le hz]
  · have hz' : ¬ z.toNat < x.toNat + 1 := by omega
    simp [hz, hz']

/-- Settles O48: a load of the registers up to Vx. -/
theorem blockLoad : Obligations.BlockLoad := by
  intro s x
  refine ⟨fun hfit => ⟨_, exec_loadRegs_fits hfit, fun z hz => ?_, fun z hz => ?_, rfl, by simp⟩,
    fun hfit => endsIn_of_exec (exec_loadRegs_outside hfit)⟩
  · rw [readV_setPc, readV_loadRegs, if_pos hz]
  · rw [readV_setPc, readV_loadRegs, if_neg (Nat.not_le.mpr hz)]

end Sys2Proof.Machine
end

section
/-! Proofs about sprites (44_drawing R101-R106): the rows 0 to n - 1 as one exclusive or of the sprite, when a
blit completes and where it faults, and the obligations from these. -/

namespace Sys2Proof.Machine

/-! The sprite bit. -/

/-- A lit sprite bit is column `c` of row `r` of the sprite (R101). -/
theorem spriteBit_iff {s : State} {x0 y0 n px py : Nat} :
    spriteBit s x0 y0 n px py = true ↔
      ∃ r ∈ List.range n, py = y0 + r ∧ ∃ c ∈ List.range 8, px = x0 + c ∧
        (s.mem.read (s.i.toNat + r)).getLsbD (7 - c) = true := by
  simp only [spriteBit, Bool.and_eq_true, decide_eq_true_eq, List.mem_range]
  constructor
  · rintro ⟨⟨⟨⟨hx, hx'⟩, hy⟩, hy'⟩, hbit⟩
    exact ⟨py - y0, by omega, by omega, px - x0, by omega, by omega, hbit⟩
  · rintro ⟨r, hr, rfl, c, hc, rfl, hbit⟩
    simp only [Nat.add_sub_cancel_left]
    exact ⟨⟨⟨⟨by omega, by omega⟩, by omega⟩, by omega⟩, hbit⟩

/-- The rows 0 to n - 1, none faulting, XOR the sprite onto the screen; a collision is a lit sprite bit on a
lit cell (R103, R104). -/
theorem drawRows_range {s : State} {x0 y0 n : Nat} (hmem : ∀ r < n, s.i.toNat + r ≤ 0xFFF)
    (hedge : s.params.drawEdge = .clip ∨ ∀ r < n, y0 + r < 32 ∧ x0 + 8 ≤ 64) (b : Blit) :
    ∃ b', s.drawRows x0 y0 (List.range n) b = .ok b' ∧
      (∀ px py, px < 64 → py < 32 →
        b'.fb.pixel px py = (b.fb.pixel px py != spriteBit s x0 y0 n px py)) ∧
      (b'.hit = true ↔ b.hit = true ∨
        ∃ px py, px < 64 ∧ py < 32 ∧ b.fb.pixel px py = true ∧ spriteBit s x0 y0 n px py = true) := by
  obtain ⟨b', hb, hpix, hhit⟩ := drawRows_ok s x0 y0 (rs := List.range n) List.nodup_range
    (fun r hr => hmem r (List.mem_range.mp hr))
    (hedge.imp_right fun h r hr => h r (List.mem_range.mp hr)) b
  refine ⟨b', hb, fun px py hx hy => ?_, hhit.trans (or_congr_right ?_)⟩
  · rw [hpix px py hx hy]
    refine congrArg _ (Bool.eq_iff_iff.mpr ?_)
    rw [decide_eq_true_iff, spriteBit_iff]
  · constructor
    · rintro ⟨r, hr, c, hc, hx, hy, hbit, hlit⟩
      exact ⟨_, _, hx, hy, hlit, spriteBit_iff.mpr ⟨r, hr, rfl, c, hc, rfl, hbit⟩⟩
    · rintro ⟨px, py, hx, hy, hlit, hsprite⟩
      obtain ⟨r, hr, rfl, c, hc, rfl, hbit⟩ := spriteBit_iff.mp hsprite
      exact ⟨r, hr, c, hc, hx, hy, hbit, hlit⟩

/-! DXYN by what its rows give. -/

/-- The blit of DXYN: n rows at (Vx mod 64, Vy mod 32) from the frame before (R103). -/
def State.blit (s : State) (x y n : Nibble) : Except Fault Blit :=
  s.drawRows (startColumn (s.readV x)) (startRow (s.readV y)) (List.range n.toNat) ⟨s.fb, false⟩

theorem exec_drw_ok {s : State} {x y n : Nibble} {b : Blit} (h : s.blit x y n = .ok b) :
    exec (.drw x y n) s =
      .next ((((s.setFb b.fb).setRedraw true).writeV vf (flagByte b.hit)).setPc (s.pc + 2)) := by
  unfold State.blit at h
  simp only [exec, execDrw, h, finish_eq]

theorem exec_drw_error {s : State} {x y n : Nibble} {f : Fault} (h : s.blit x y n = .error f) :
    exec (.drw x y n) s = raise f s := by
  unfold State.blit at h
  simp only [exec, execDrw, h]

theorem setFb_self (s : State) : s.setFb s.fb = s := rfl

/-- Settles O40: no row is drawn. -/
theorem drawZeroRows : Obligations.DrawZeroRows := by
  intro s x y
  exact ⟨_, exec_drw_ok rfl, by simp [flagByte], rfl, fun z hz => by simp [hz], rfl, by simp [setFb_self]⟩

/-- Settles O36: `drawRows_range` from the frame before. -/
theorem drawXorsSprite : Obligations.DrawXorsSprite := by
  rintro s x y n _ _ rfl rfl hmem hedge
  have hrows : ∀ r < n.toNat, s.i.toNat + r ≤ 0xFFF := by
    intro r hr
    rcases hmem with rfl | hmem
    · exact absurd hr (Nat.not_lt_zero r)
    · omega
  have hon (h : onScreen (startColumn (s.readV x)) (startRow (s.readV y)) n.toNat) :
      ∀ r < n.toNat, startRow (s.readV y) + r < 32 ∧ startColumn (s.readV x) + 8 ≤ 64 := by
    intro r hr
    rcases h with h | ⟨hcol, hrow⟩
    · omega
    · exact ⟨by omega, hcol⟩
  obtain ⟨b, hb, hpix, hhit⟩ := drawRows_range hrows (hedge.imp_right hon) ⟨s.fb, false⟩
  refine ⟨_, exec_drw_ok hb, hpix, fun hlit => ?_, fun hdark => ?_, rfl, fun z hz => by simp [hz], rfl,
    by simp⟩
  · have hset : b.hit = true := hhit.mpr (.inr hlit)
    simp [hset, flagByte]
  · have hclear : b.hit = false := by
      rw [← Bool.not_eq_true, hhit]
      rintro (h | ⟨px, py, hx, hy, hlit, hsprite⟩)
      · cases h
      · cases (hdark px py hx hy hlit).symm.trans hsprite
    simp [hclear, flagByte]

/-! Drawing twice. -/

/-- A row that completes under fault has all its cells on the screen (R105). -/
theorem onScreen_of_drawCells_ok {byte : Byte} {x0 py : Nat} {b b' : Blit}
    (h : drawCells .fault byte x0 py (List.range 8) b = .ok b') : py < 32 ∧ x0 + 8 ≤ 64 := by
  by_contra hoff
  rw [drawCells_fault byte x0 py b ⟨7, by simp, by omega⟩] at h
  cases h

/-- Rows that complete are in memory and, unless edges are clipped, on the screen (R105, R122). -/
theorem fits_of_drawRows_ok {s : State} {x0 y0 : Nat} {rs : List Nat} {b b' : Blit}
    (h : s.drawRows x0 y0 rs b = .ok b') :
    (∀ r ∈ rs, s.i.toNat + r ≤ 0xFFF) ∧
      (s.params.drawEdge = .clip ∨ ∀ r ∈ rs, y0 + r < 32 ∧ x0 + 8 ≤ 64) := by
  induction rs generalizing b with
  | nil => exact ⟨by simp, .inr (by simp)⟩
  | cons r rs ih =>
    rw [State.drawRows] at h
    by_cases hr : s.i.toNat + r ≤ 0xFFF
    · rw [memRead_inside hr] at h
      cases hc : drawCells s.params.drawEdge (s.mem.read (s.i.toNat + r)) x0 (y0 + r) (List.range 8) b with
      | error f => simp [hc] at h
      | ok b1 =>
        simp only [hc] at h
        obtain ⟨hmem, hedge⟩ := ih h
        refine ⟨List.forall_mem_cons.mpr ⟨hr, hmem⟩, ?_⟩
        cases he : s.params.drawEdge with
        | clip => exact .inl rfl
        | fault =>
          rw [he] at hc hedge
          exact .inr (List.forall_mem_cons.mpr ⟨onScreen_of_drawCells_ok hc, hedge.resolve_left (by simp)⟩)
    · rw [memRead_outside (by omega)] at h
      cases h

/-- A cell off the screen is dark. -/
theorem pixel_offScreen (f : Frame) {px py : Nat} (h : ¬ (px < 64 ∧ py < 32)) : f.pixel px py = false := by
  unfold Frame.pixel
  split_ifs with hy
  · exact BitVec.getLsbD_of_ge _ _ (by omega)
  · rfl

/-- A DXYN that raises no fault: where it ends, and the screen it leaves (R103). -/
theorem exec_drw_next {s t : State} {x y n : Nibble} (h : exec (.drw x y n) s = .next t)
    (hfault : t.fault = none) :
    ∃ b : Blit, t = (((s.setFb b.fb).setRedraw true).writeV vf (flagByte b.hit)).setPc (s.pc + 2) ∧
      ∀ px py, px < 64 → py < 32 → b.fb.pixel px py = (s.fb.pixel px py !=
        spriteBit s (startColumn (s.readV x)) (startRow (s.readV y)) n.toNat px py) := by
  cases hrows : s.blit x y n with
  | error f =>
    obtain rfl := eq_of_exec_next (exec_drw_error hrows) h
    cases hfault
  | ok b =>
    obtain rfl := eq_of_exec_next (exec_drw_ok hrows) h
    obtain ⟨hmem, hedge⟩ := fits_of_drawRows_ok hrows
    obtain ⟨b', hb', hpix, -⟩ := drawRows_range (fun r hr => hmem r (List.mem_range.mpr hr))
      (hedge.imp_right fun h r hr => h r (List.mem_range.mpr hr)) ⟨s.fb, false⟩
    obtain rfl := Except.ok.inj (hrows.symm.trans hb')
    exact ⟨b, rfl, hpix⟩

/-- Settles O37: the second blit is the exclusive or with the same sprite, the first having changed neither
Vx, Vy, I nor memory. -/
theorem drawTwiceErases : Obligations.DrawTwiceErases := by
  intro s t u x y n hx hy hs hst htfault htu hufault px py
  obtain ⟨b, rfl, hfirst⟩ := exec_drw_next hst htfault
  obtain ⟨c, rfl, hsecond⟩ := exec_drw_next htu hufault
  by_cases hon : px < 64 ∧ py < 32
  · have h2 := hsecond px py hon.1 hon.2
    simp only [readV_setPc, readV_writeV, hx, hy, if_false, readV_setRedraw, readV_setFb] at h2
    simpa [spriteBit, hfirst px py hon.1 hon.2] using h2
  · rw [pixel_offScreen _ hon, pixel_offScreen _ hon]

/-! Where a blit faults. -/

/-- The rows 0 to n - 1 up to and from row `k`. -/
theorem range_split {k n : Nat} (h : k < n) : ∃ after, List.range n = List.range k ++ k :: after := by
  obtain ⟨m, rfl⟩ : ∃ m, n = k + (m + 1) := ⟨n - k - 1, by omega⟩
  refine ⟨(List.range m).map fun j => k + (j + 1), ?_⟩
  rw [List.range_add, List.range_succ_eq_map]
  simp [Function.comp_def]

/-- When row 0x1000 - I is drawn and no row before it is off the screen, DXYN reports that row's address
(R122, R127). -/
theorem endsIn_drw_outside {s : State} {x y n : Nibble} (hn : 0x1000 - s.i.toNat < n.toNat)
    (hedge : s.params.drawEdge = .clip ∨
      ∀ r < 0x1000 - s.i.toNat, startRow (s.readV y) + r < 32 ∧ startColumn (s.readV x) + 8 ≤ 64) :
    EndsIn (.drw x y n) s (.memoryOutOfBounds (firstOutside s)) := by
  obtain ⟨after, hsplit⟩ := range_split hn
  have haddr : s.i.toNat + (0x1000 - s.i.toNat) = firstOutside s := by unfold firstOutside; omega
  refine endsIn_of_exec (exec_drw_error ?_)
  rw [State.blit, hsplit, ← haddr]
  exact drawRows_outside s _ _ List.nodup_range (fun r hr => by have := List.mem_range.mp hr; omega)
    (hedge.imp_right fun h r hr => h r (List.mem_range.mp hr)) (by omega) _

/-- When row `k` is drawn, is in memory and is the first with a cell off the screen, DXYN faults on it under
fault (R105, R127). -/
theorem endsIn_drw_edge {s : State} {x y n : Nibble} {k : Nat} (hfault : s.params.drawEdge = .fault)
    (hn : k < n.toNat) (hmem : s.i.toNat + k ≤ 0xFFF)
    (hon : ∀ r < k, startRow (s.readV y) + r < 32 ∧ startColumn (s.readV x) + 8 ≤ 64)
    (hoff : 31 < startRow (s.readV y) + k ∨ 64 < startColumn (s.readV x) + 8) :
    EndsIn (.drw x y n) s .drawOutOfBounds := by
  obtain ⟨after, hsplit⟩ := range_split hn
  refine endsIn_of_exec (exec_drw_error ?_)
  rw [State.blit, hsplit]
  exact drawRows_edge s _ _ hfault List.nodup_range (fun r hr => by have := List.mem_range.mp hr; omega)
    (fun r hr => hon r (List.mem_range.mp hr)) hmem hoff _

/-- Settles O39: under clip no edge comes before the row out of memory. -/
theorem drawPastMemoryFaults : Obligations.DrawPastMemoryFaults := by
  intro s x y n hclip hn hpast
  have hpos : n.toNat ≠ 0 := fun e => hn (BitVec.eq_of_toNat_eq e)
  exact endsIn_drw_outside (by omega) (.inl hclip)

/-- Settles O38: rows before the first bad one are on the screen and in memory. -/
theorem drawFaultsInRowOrder : Obligations.DrawFaultsInRowOrder := by
  rintro s x y n rowEdge _ hfault hrow rfl
  have hon : ∀ r < rowEdge, startRow (s.readV y) + r < 32 ∧ startColumn (s.readV x) + 8 ≤ 64 := by
    intro r hr
    unfold startRow startColumn
    split_ifs at hrow <;> omega
  refine ⟨fun hle hn => endsIn_drw_outside hn (.inr fun r hr => hon r (hr.trans_le hle)),
    fun hlt hn => endsIn_drw_edge hfault hn (by omega) hon ?_⟩
  unfold startRow startColumn
  split_ifs at hrow <;> omega

end Sys2Proof.Machine
end

section
/-! What any instruction can do, once (R66, R119): it raises a fault that is listed for it, or it completes
within its frame. The obligations about all 46 instructions follow from this. -/

namespace Sys2Proof.Machine

/-- What every completed instruction keeps: its frame by part, by register and by byte, the next PC of one that
transfers no control, canonical memory, the stack but for one push or pop, and REDRAW once set. -/
structure Completed (i : Instr) (s t : State) : Prop where
  frame : SameBut (.pc :: .v :: i.mayChange) s t
  regs : ∀ z, i.mayWrite z = false → t.readV z = s.readV z
  bytes : ∀ a, ¬ (s.i.toNat ≤ a ∧ a < s.i.toNat + i.storeLength) → t.mem.read a = s.mem.read a
  next : i.transfers = false → t.pc = s.pc + 2
  canonical : s.mem.wf = true → t.mem.wf = true
  stack : t.stack = s.stack ∨ (s.sp < 16 ∧ t.stack = s.pc :: s.stack) ∨ ∃ a, s.stack = a :: t.stack
  redraw : s.redraw = true → t.redraw = true

/-- The instruction completes, within its frame. -/
def Completes (i : Instr) (s : State) : Prop := ∃ t, exec i s = .next t ∧ Completed i s t

/-- The instruction ends in a fault listed for it. -/
def Faults (i : Instr) (s : State) : Prop := ∃ f : Fault, exec i s = raise f s ∧ f.raisedBy i

/-! Completion by the shape of the effect. -/

section
variable {i : Instr} {s u : State} {pcPre : Word}

/-- An instruction that leaves memory and the stack alone. -/
theorem completes_of_finish (h : exec i s = finish pcPre u) (hpc : i.transfers = false → pcPre = s.pc)
    (hframe : SameBut (.pc :: .v :: i.mayChange) s u)
    (hregs : ∀ z, i.mayWrite z = false → u.readV z = s.readV z) (hmem : u.mem = s.mem)
    (hstack : u.stack = s.stack) (hredraw : s.redraw = true → u.redraw = true) : Completes i s :=
  ⟨_, h,
    { frame := by simpa using hframe
      regs := hregs
      bytes := fun a _ => congrArg (Memory.read · a) hmem
      next := fun ht => congrArg (· + 2) (hpc ht)
      canonical := fun hwf => by rwa [setPc_mem, hmem]
      stack := .inl hstack
      redraw := hredraw }⟩

/-- An instruction that changes PC alone. -/
theorem completes_of_pc (h : exec i s = finish pcPre s) (hpc : i.transfers = false → pcPre = s.pc) :
    Completes i s :=
  completes_of_finish h hpc (sameBut_refl _ s) (fun _ _ => rfl) rfl rfl id

/-- An instruction that changes registers alone. -/
theorem completes_of_setV {v : Vector Byte 16} (h : exec i s = finish s.pc (s.setV v))
    (hregs : ∀ z, i.mayWrite z = false → (s.setV v).readV z = s.readV z) : Completes i s :=
  completes_of_finish h (fun _ => rfl) (by simp) hregs rfl rfl id

/-- An instruction that writes one register. -/
theorem completes_of_writeV {x : Nibble} {b : Byte} (h : exec i s = finish s.pc (s.writeV x b))
    (hx : i.mayWrite x = true) : Completes i s :=
  completes_of_setV h fun z hz => by
    have hne : z ≠ x := by rintro rfl; simp [hx] at hz
    exact (readV_writeV s x z b).trans (if_neg hne)

/-- An instruction that writes a flag first and then a result. -/
theorem completes_of_writeFlagThenResult {x : Nibble} {f r : Byte}
    (h : exec i s = finish s.pc (s.writeFlagThenResult x f r)) (hx : i.mayWrite x = true)
    (hvf : i.mayWrite vf = true) : Completes i s :=
  completes_of_setV h fun z hz => by
    have hzx : z ≠ x := by rintro rfl; simp [hx] at hz
    have hzf : z ≠ vf := by rintro rfl; simp [hvf] at hz
    exact (readV_writeFlagThenResult s x z f r).trans (by simp [hzx, hzf])

/-- An instruction that writes a flag and a result in the order of `VF_ALIAS_ORDER`. -/
theorem completes_of_writeFlagAndResult {x : Nibble} {f r : Byte}
    (h : exec i s = finish s.pc (s.writeFlagAndResult x f r)) (hx : i.mayWrite x = true)
    (hvf : i.mayWrite vf = true) : Completes i s := by
  have hread := readV_writeFlagAndResult s x (f := f) (r := r)
  rw [writeFlagAndResult_eq_setV] at h hread
  refine completes_of_setV h fun z hz => ?_
  have hzx : z ≠ x := by rintro rfl; simp [hx] at hz
  have hzf : z ≠ vf := by rintro rfl; simp [hvf] at hz
  rw [hread]
  cases s.params.vfAliasOrder <;> simp [hzx, hzf]

/-- An instruction that stores a list of bytes from I on, or runs out of memory. -/
theorem completes_or_faults_of_memWriteAll {bs : List Byte}
    (h : exec i s = s.finishOr (s.memWriteAll s.i.toNat bs)) (hne : bs ≠ [])
    (hlen : bs.length = i.storeLength) (hchange : i.mayChange = [.mem])
    (hraise : ∀ a, 0xFFF < a → (Fault.memoryOutOfBounds a).raisedBy i) : Completes i s ∨ Faults i s := by
  by_cases hfit : s.i.toNat + bs.length ≤ 0x1000
  · refine .inl ⟨_, h.trans (finishOr_memWriteAll_inside hfit), ?_⟩
    exact
      { frame := by simp [hchange]
        regs := fun _ _ => rfl
        bytes := fun a ha => Memory.read_writeList_outside _ _ (by rwa [hlen])
        next := fun _ => rfl
        canonical := fun hwf => Memory.wf_writeList hwf hfit
        stack := .inl rfl
        redraw := id }
  · refine .inr ⟨_, h.trans (finishOr_memWriteAll_outside hne (by omega)), hraise _ ?_⟩
    unfold firstOutside
    omega

end

/-! The instructions that can fault. -/

theorem keyIndex_error {p : Config.KeyIndexPolicy} {v : Byte} {f : Fault} (h : keyIndex p v = .error f) :
    f = .keyIndexOutOfRange v ∧ 15 < v.toNat := by
  by_cases hv : 15 < v.toNat
  · cases p with
    | fault => exact ⟨(Except.error.inj ((keyIndex_large_fault hv).symm.trans h)).symm, hv⟩
    | lowNibble => cases (keyIndex_lowNibble v).symm.trans h
  · cases (keyIndex_small p (Nat.not_lt.mp hv)).symm.trans h

/-- The only fault of a sprite row is the screen edge (R105). -/
theorem drawCells_error {edge : Config.DrawEdge} {byte : Byte} {x0 py : Nat} {cs : List Nat} {b : Blit}
    {f : Fault} (h : drawCells edge byte x0 py cs b = .error f) : f = .drawOutOfBounds := by
  induction cs generalizing b with
  | nil => cases h
  | cons c cs ih =>
    rw [drawCells] at h
    by_cases hoff : 63 < x0 + c ∨ 31 < py
    · cases edge with
      | clip =>
        rw [drawCell_clip hoff] at h
        exact ih h
      | fault =>
        rw [drawCell_fault hoff] at h
        exact (Except.error.inj h).symm
    · rw [drawCell_onScreen _ _ (by omega) (by omega)] at h
      exact ih h

/-- The faults of a blit (R105, R122). -/
theorem drawRows_error {s : State} {x0 y0 : Nat} {rs : List Nat} {b : Blit} {f : Fault}
    (h : s.drawRows x0 y0 rs b = .error f) :
    f = .drawOutOfBounds ∨ ∃ a, 0xFFF < a ∧ f = .memoryOutOfBounds a := by
  induction rs generalizing b with
  | nil => cases h
  | cons r rs ih =>
    rw [State.drawRows] at h
    by_cases hr : 0xFFF < s.i.toNat + r
    · rw [memRead_outside hr] at h
      exact .inr ⟨_, hr, (Except.error.inj h).symm⟩
    · rw [memRead_inside (by omega)] at h
      cases hc : drawCells s.params.drawEdge (s.mem.read (s.i.toNat + r)) x0 (y0 + r) (List.range 8) b with
      | error g =>
        simp only [hc] at h
        exact .inl ((Except.error.inj h).symm.trans (drawCells_error hc))
      | ok b' =>
        simp only [hc] at h
        exact ih h

theorem drw_completes_or_faults (x y n : Nibble) (s : State) :
    Completes (.drw x y n) s ∨ Faults (.drw x y n) s := by
  cases h : s.blit x y n with
  | ok b =>
    refine .inl (completes_of_finish (exec_drw_ok h) (fun _ => rfl) (by simp [Instr.mayChange])
      (fun z hz => ?_) rfl rfl fun _ => rfl)
    have hne : z ≠ vf := by rintro rfl; cases hz
    simp [hne]
  | error f =>
    refine .inr ⟨f, exec_drw_error h, ?_⟩
    rcases drawRows_error h with rfl | ⟨a, ha, rfl⟩
    · exact ⟨x, y, n, rfl⟩
    · exact ⟨ha, .inl ⟨x, y, n, rfl⟩⟩

theorem call_completes_or_faults (nnn : Addr12) (s : State) :
    Completes (.call nnn) s ∨ Faults (.call nnn) s := by
  by_cases hsp : s.sp < 16
  · refine .inl ⟨_, exec_call_below nnn hsp, ?_⟩
    exact
      { frame := by simp [Instr.mayChange]
        regs := fun _ _ => rfl
        bytes := fun _ _ => rfl
        next := nofun
        canonical := id
        stack := .inr (.inl ⟨hsp, rfl⟩)
        redraw := id }
  · exact .inr ⟨_, exec_call_full nnn (Nat.not_lt.mp hsp), nnn, rfl⟩

theorem ret_completes_or_faults (s : State) : Completes .ret s ∨ Faults .ret s := by
  cases h : s.stack with
  | nil => exact .inr ⟨_, exec_ret_nil h, rfl⟩
  | cons a rest =>
    refine .inl ⟨_, exec_ret_cons h, ?_⟩
    exact
      { frame := by simp [Instr.mayChange]
        regs := fun _ _ => rfl
        bytes := fun _ _ => rfl
        next := nofun
        canonical := id
        stack := .inr (.inr ⟨a, h⟩)
        redraw := id }

theorem skp_completes_or_faults (x : Nibble) (s : State) :
    Completes (.skp x) s ∨ Faults (.skp x) s := by
  cases h : keyIndex s.params.keyIndexPolicy (s.readV x) with
  | ok k => exact .inl (completes_of_pc (exec_skp_ok h) nofun)
  | error f =>
    obtain ⟨rfl, hv⟩ := keyIndex_error h
    exact .inr ⟨_, exec_skp_error h, hv, .inl ⟨x, rfl⟩⟩

theorem sknp_completes_or_faults (x : Nibble) (s : State) :
    Completes (.sknp x) s ∨ Faults (.sknp x) s := by
  cases h : keyIndex s.params.keyIndexPolicy (s.readV x) with
  | ok k => exact .inl (completes_of_pc (exec_sknp_ok h) nofun)
  | error f =>
    obtain ⟨rfl, hv⟩ := keyIndex_error h
    exact .inr ⟨_, exec_sknp_error h, hv, .inr ⟨x, rfl⟩⟩

theorem ldVxK_completes (x : Nibble) (s : State) : Completes (.ldVxK x) s := by
  cases h : s.lowestPressed with
  | none => exact completes_of_pc (exec_ldVxK_none h) nofun
  | some k => exact completes_of_writeV (exec_ldVxK_some h) (beq_self_eq_true x)

theorem loadRegs_completes_or_faults (x : Nibble) (s : State) :
    Completes (.loadRegs x) s ∨ Faults (.loadRegs x) s := by
  by_cases hfit : transferFits s x.toNat
  · refine .inl (completes_of_finish (exec_loadRegs_fits hfit) (fun _ => rfl) (by simp) (fun z hz => ?_)
      (by simp) (by simp) (by simp))
    rw [readV_loadRegs, if_neg (of_decide_eq_false hz)]
  · refine .inr ⟨_, exec_loadRegs_outside hfit, ?_, .inr (.inr (.inr ⟨x, rfl⟩))⟩
    unfold firstOutside
    omega

/-! Every instruction. -/

/-- An instruction completes within its frame or ends in a fault listed for it. -/
theorem completes_or_faults (i : Instr) (s : State) : Completes i s ∨ Faults i s := by
  cases i with
  | cls =>
    exact .inl (completes_of_finish rfl (fun _ => rfl) (by simp [Instr.mayChange]) (fun _ _ => rfl) rfl rfl
      fun h => by simp [h])
  | ret => exact ret_completes_or_faults s
  | call nnn => exact call_completes_or_faults nnn s
  | jp | jpV0 | seImm | sneImm | seReg | sneReg => exact .inl (completes_of_pc rfl nofun)
  | nop8XY8 | nop8XY9 | nop8XYA | nop8XYB | nop8XYC | nop8XYD | nop8XYF | nopSys | nopE | nopF | nopStrict5
  | nopStrict9 => exact .inl (completes_of_pc rfl fun _ => rfl)
  | ldImm x | addImm x | ldReg x | orReg x | andReg x | xorReg x | ldVxDt x =>
    exact .inl (completes_of_writeV rfl (beq_self_eq_true x))
  | addReg x | shr x | shl x =>
    exact .inl (completes_of_writeFlagAndResult rfl (by simp [Instr.mayWrite]) (by simp [Instr.mayWrite]))
  | sub x | subn x =>
    exact .inl (completes_of_writeFlagThenResult rfl (by simp [Instr.mayWrite]) (by simp [Instr.mayWrite]))
  | ldI | addI | ldF | ldDtVx | ldStVx =>
    exact .inl (completes_of_finish rfl (fun _ => rfl) (by simp [Instr.mayChange]) (fun _ _ => rfl) rfl rfl id)
  | rnd x =>
    refine .inl (completes_of_finish rfl (fun _ => rfl) (by simp [Instr.mayChange]) (fun z hz => ?_) rfl rfl id)
    have hne : z ≠ x := by rintro rfl; simp [Instr.mayWrite] at hz
    simp [hne]
  | drw x y n => exact drw_completes_or_faults x y n s
  | skp x => exact skp_completes_or_faults x s
  | sknp x => exact sknp_completes_or_faults x s
  | ldVxK x => exact .inl (ldVxK_completes x s)
  | ldB x =>
    exact completes_or_faults_of_memWriteAll rfl (List.cons_ne_nil _ _) rfl rfl
      fun a ha => ⟨ha, .inr (.inl ⟨x, rfl⟩)⟩
  | storeRegs x =>
    exact completes_or_faults_of_memWriteAll rfl (regsUpTo_ne_nil s x) (regsUpTo_length s x) rfl
      fun a ha => ⟨ha, .inr (.inr (.inl ⟨x, rfl⟩))⟩
  | loadRegs x => exact loadRegs_completes_or_faults x s

/-- No instruction may change whether a fault is held, a key or a parameter. -/
theorem not_mem_mayChange (i : Instr) :
    .fault ∉ i.mayChange ∧ .key ∉ i.mayChange ∧ .params ∉ i.mayChange := by
  cases i <;> simp [Instr.mayChange]

section
variable {i : Instr} {s t : State}

theorem Completed.same_fault (h : Completed i s t) : t.fault = s.fault :=
  h.frame .fault (by simp [not_mem_mayChange i])

theorem Completed.same_keys (h : Completed i s t) (k : Nibble) : t.pressed k = s.pressed k :=
  h.frame .key (by simp [not_mem_mayChange i]) k

theorem Completed.same_params (h : Completed i s t) : t.params = s.params :=
  h.frame .params (by simp [not_mem_mayChange i])

/-- What an instruction answers: the next state it completed in, or what its fault leaves. -/
theorem exec_next (h : exec i s = .next t) :
    Completed i s t ∨ ∃ f : Fault, t = s.takeFault f ∧ f.raisedBy i := by
  rcases completes_or_faults i s with ⟨u, hu, hc⟩ | ⟨f, hf, hraise⟩
  · obtain rfl := eq_of_exec_next hu h
    exact .inl hc
  · exact .inr ⟨f, eq_of_exec_next h hf, hraise⟩

/-- One that answers a state without a fault completed. -/
theorem completed_of_exec (h : exec i s = .next t) (hfault : t.fault = none) : Completed i s t := by
  rcases exec_next h with hc | ⟨f, rfl, -⟩
  · exact hc
  · cases hfault

end

/-! The obligations about all instructions. -/

/-- Settles O17: the frame that `Completed` records. -/
theorem completedInstructionFrame : Obligations.CompletedInstructionFrame := fun _ _ _ hexec _ hfault =>
  have hc := completed_of_exec hexec hfault
  ⟨hc.frame, hc.regs, hc.bytes⟩

/-- Settles O18: a completed instruction holds the fault of before, so a new one was raised. -/
theorem faultsOnlyFromTheirInstructions : Obligations.FaultsOnlyFromTheirInstructions := by
  intro i s t f hexec hs ht
  rcases exec_next hexec with hc | ⟨g, rfl, hraise⟩
  · rw [hc.same_fault, hs] at ht
    cases ht
  · rwa [← Option.some.inj ht]

/-- Settles O19: the next PC that `Completed` records. -/
theorem ordinaryInstructionsAdvanceByTwo : Obligations.OrdinaryInstructionsAdvanceByTwo := by
  intro i s t htransfers hexec _ hfault
  rw [(completed_of_exec hexec hfault).next htransfers]
  exact BitVec.toNat_add s.pc 2

end Sys2Proof.Machine
end

section
/-! Proofs about the cycle (40_cycle R63-R69, 60_exceptions R125-R136) and the invariant of every run: what a
step can be, once, and the obligations from it. -/

namespace Sys2Proof.Machine

section
variable {s t : State}

/-- Everything a step that answers a next state can be: a fault raised by the fetch or by the instruction
fetched, or a completed instruction and the tick (R63, R125). -/
theorem step_next (h : step s = .next t) : s.fault = none ∧ ((∃ f : Fault, t = s.takeFault f) ∨
    ∃ op u, s.fetch = .ok op ∧ exec (decode s.params.skipRegStrict op) s = .next u ∧
      Completed (decode s.params.skipRegStrict op) s u ∧ t = u.timerTick) := by
  obtain ⟨hs, ⟨f, -, rfl⟩ | ⟨op, u, hfetch, hexec, rfl⟩⟩ := step_cases h
  · exact ⟨hs, .inl ⟨f, rfl⟩⟩
  · rcases exec_next hexec with hc | ⟨f, rfl, -⟩
    · have hu : u.fault = none := hc.same_fault.trans hs
      exact ⟨hs, .inr ⟨op, u, hfetch, hexec, hc, endCycle_of_none hu⟩⟩
    · exact ⟨hs, .inl ⟨f, endCycle_of_fault rfl⟩⟩

/-- A step that answers a state without a fault is a completed instruction and the tick. -/
theorem step_completed (h : step s = .next t) (ht : t.fault = none) :
    ∃ op u, s.fetch = .ok op ∧ exec (decode s.params.skipRegStrict op) s = .next u ∧
      Completed (decode s.params.skipRegStrict op) s u ∧ t = u.timerTick := by
  obtain ⟨-, ⟨f, rfl⟩ | hcompleted⟩ := step_next h
  · cases ht
  · exact hcompleted

/-- A step on a machine that holds a fault answers it (R64). -/
theorem step_of_fault {f : Fault} (h : s.fault = some f) : step s = .fault f := by
  simp only [step, h]

/-- A step whose fetch faults raises that fault (R41). -/
theorem step_of_fetch_error {f : Fault} (hs : s.fault = none) (h : s.fetch = .error f) :
    step s = raise f s := by
  simp only [step, hs, h]

/-- A fetch that runs out of memory faults on the larger of PC and 0x1000, and leaves what a fault leaves
(R41, R126). -/
theorem step_fetch_outside {a : Nat} (hs : s.fault = none) (hpc : 0xFFF < s.pc.toNat + 1)
    (ha : max s.pc.toNat 0x1000 = a) :
    ∃ t, step s = .next t ∧ FaultLeaves (.memoryOutOfBounds a) s t :=
  ha ▸ ⟨_, step_of_fetch_error hs (fetch_outside hpc), faultLeaves_takeFault _ s⟩

/-- A step whose fetch does not fault runs the instruction and ends the cycle (R63). -/
theorem step_of_exec {op : Word} (hs : s.fault = none) (hfetch : s.fetch = .ok op)
    (h : exec (decode s.params.skipRegStrict op) s = .next t) : step s = .next t.endCycle := by
  simp only [step, hs, hfetch, h]

/-- Without a fault held there is always a next state. -/
theorem exists_step_next (hs : s.fault = none) : ∃ t, step s = .next t := by
  cases hfetch : s.fetch with
  | error f => exact ⟨_, step_of_fetch_error hs hfetch⟩
  | ok op =>
    rcases completes_or_faults (decode s.params.skipRegStrict op) s with ⟨t, ht, -⟩ | ⟨f, hf, -⟩
    · exact ⟨_, step_of_exec hs hfetch ht⟩
    · exact ⟨_, step_of_exec hs hfetch hf⟩

end

/-! The caller's operations. -/

theorem setKey_of_lt {s : State} {k : Nat} (b : Bool) (h : k < 16) :
    s.setKey k b = s.setKeys (s.key.set k b) := dif_pos h

theorem setKey_of_ge {s : State} {k : Nat} (b : Bool) (h : 16 ≤ k) : s.setKey k b = s :=
  dif_neg (Nat.not_lt.mpr h)

/-- A load that succeeds writes at most 0xE00 bytes of memory (R136). -/
theorem load_ok {s t : State} {bs : List Byte} (h : s.load bs = .ok t) :
    bs.length ≤ 0xE00 ∧ t = s.setMem (s.mem.writeList programBase bs) := by
  unfold State.load at h
  split_ifs at h with hlen
  exact ⟨Nat.not_lt.mp hlen, (Except.ok.inj h).symm⟩

/-- Setting a key changes the key map at most (R133). -/
theorem setKey_eq_setKeys (s : State) (k : Nat) (b : Bool) : ∃ keys, s.setKey k b = s.setKeys keys := by
  by_cases hk : k < 16
  · exact ⟨_, setKey_of_lt b hk⟩
  · exact ⟨s.key, setKey_of_ge b (Nat.not_lt.mp hk)⟩

/-! The invariant. -/

/-- Settles O14: a fault leaves canonical memory and its own result; a completed instruction keeps memory
canonical and pushes at most the address it was fetched from, which is at most 0xFFE. -/
theorem stepKeepsInvariant : Obligations.StepKeepsInvariant := by
  rintro s t ⟨hmem, hlen, haddr, -⟩ hstep
  obtain ⟨hs, ⟨f, rfl⟩ | ⟨op, u, hfetch, -, hc, rfl⟩⟩ := step_next hstep
  · refine ⟨Memory.wf_ofBytes _, hlen, haddr, fun g hg => ?_⟩
    rw [takeFault_out, Option.some.inj hg]
  · have hfault : ∀ g, u.timerTick.fault = some g → u.timerTick.out = some (.err g) := by
      intro g hg
      rw [timerTick_fault, hc.same_fault, hs] at hg
      cases hg
    refine ⟨hc.canonical hmem, ?_, ?_, hfault⟩
    · rw [timerTick_stack]
      rcases hc.stack with h | ⟨hsp, h⟩ | ⟨a, h⟩
      · rwa [h]
      · rw [h]
        exact hsp
      · rw [h, List.length_cons] at hlen
        omega
    · intro a ha
      rw [timerTick_stack] at ha
      rcases hc.stack with h | ⟨-, h⟩ | ⟨b, h⟩
      · exact haddr a (h ▸ ha)
      · rw [h] at ha
        rcases List.mem_cons.mp ha with rfl | ha
        · exact pc_le_of_fetch_ok hfetch
        · exact haddr a ha
      · exact haddr a (h ▸ List.mem_cons_of_mem b ha)

/-- A machine with an empty stack and no fault meets the invariant when its memory is canonical. -/
theorem inv_of_empty_stack {s : State} (hmem : s.mem.wf = true) (hstack : s.stack = [])
    (hfault : s.fault = none) : s.Inv := by
  simp [State.Inv, hmem, hstack, hfault]

/-- Settles O15. -/
theorem resetMeetsInvariant : Obligations.ResetMeetsInvariant :=
  inv_of_empty_stack Memory.wf_nil rfl rfl

/-- Settles O16: `load` and `init()` write inside the address space; a key and REDRAW are no part of the
invariant. -/
theorem callerKeepsInvariant : Obligations.CallerKeepsInvariant := by
  rintro s ⟨hmem, hrest⟩
  have hinit : s.init.mem.wf = true := Memory.wf_writeList Memory.wf_nil (by simp [memorySize])
  refine ⟨inv_of_empty_stack hinit rfl rfl, fun bs t ht => ?_, fun k b => ?_, ⟨hmem, hrest⟩⟩
  · obtain ⟨hlen, rfl⟩ := load_ok ht
    exact ⟨Memory.wf_writeList hmem (by simp only [programBase, memorySize]; omega), hrest⟩
  · obtain ⟨keys, hkeys⟩ := setKey_eq_setKeys s k b
    rw [hkeys]
    exact ⟨hmem, hrest⟩

/-! One cycle. -/

/-- Settles O8: the bytes at PC are the word fetched, and `endCycle` ticks unless a fault is held. -/
theorem stepRunsDecodedInstruction : Obligations.StepRunsDecodedInstruction := by
  intro s t i hs hpc _ hbytes hexec
  obtain rfl : decode s.params.skipRegStrict
      (wordOfBytes (s.mem.read s.pc.toNat) (s.mem.read (s.pc.toNat + 1))) = i :=
    congrArg Prod.fst (Except.ok.inj hbytes)
  have hstep := step_of_exec hs (fetch_inside hpc) hexec
  refine ⟨fun ht => ?_, fun ht => ?_⟩
  · rw [hstep, endCycle_of_none ht]
  · obtain ⟨f, hf⟩ := Option.ne_none_iff_exists'.mp ht
    rw [hstep, endCycle_of_fault hf]

/-- Settles O9: the state is a completed instruction's after `timerTick`. -/
theorem cycleTicksTimers : Obligations.CycleTicksTimers := by
  intro s t hstep ht
  obtain ⟨op, u, hfetch, hexec, -, rfl⟩ := step_completed hstep ht
  exact ⟨op, u, hfetch, hexec, timerTick_dt_toNat u, timerTick_st_toNat u, rfl, sameBut_timerTick u⟩

/-- Settles O10: `step_of_fault`; of the caller's operations only `init()` writes the fault. -/
theorem faultedMachineRepeatsFault : Obligations.FaultedMachineRepeatsFault := by
  intro s f hs
  have hstep := step_of_fault hs
  refine ⟨hstep, by simp only [cycle, hstep], rfl, fun bs t ht => ?_, fun k b => ?_, hs⟩
  · obtain ⟨-, rfl⟩ := load_ok ht
    exact hs
  · obtain ⟨keys, hkeys⟩ := setKey_eq_setKeys s k b
    rw [hkeys]
    exact hs

/-- Settles O11: PC is at the last address, or itself outside. -/
theorem fetchFaultReportsFirstAddress : Obligations.FetchFaultReportsFirstAddress := by
  refine fun s hs => ⟨fun hpc => ?_, fun hpc => ?_⟩
  · have hnat : s.pc.toNat = 0xFFF := congrArg BitVec.toNat hpc
    exact step_fetch_outside hs (by omega) (by omega)
  · exact step_fetch_outside hs (by omega) (by omega)

/-- Settles O12: a state that holds a fault after a step is what `takeFault` leaves. -/
theorem faultKeepsControlState : Obligations.FaultKeepsControlState := by
  intro s t f hstep ht
  obtain ⟨hs, ⟨g, rfl⟩ | ⟨op, u, -, -, hc, rfl⟩⟩ := step_next hstep
  · rw [← Option.some.inj ht]
    exact faultLeaves_takeFault g s
  · rw [timerTick_fault, hc.same_fault, hs] at ht
    cases ht

/-- Settles O13: with a fault held it comes back; without one the step's own result does. -/
theorem cycleAlwaysReturnsResult : Obligations.CycleAlwaysReturnsResult := by
  intro s
  cases hs : s.fault with
  | some f =>
    refine .inr ⟨f, ?_⟩
    simp only [cycle, step_of_fault hs]
    exact ⟨trivial, hs⟩
  | none =>
    obtain ⟨t, hstep⟩ := exists_step_next hs
    simp only [cycle, hstep]
    obtain ⟨-, ⟨f, rfl⟩ | ⟨op, u, -, -, hc, rfl⟩⟩ := step_next hstep
    · exact .inr ⟨f, rfl, rfl⟩
    · exact .inl ⟨_, rfl, hc.same_fault.trans hs⟩

/-- Settles O52: neither a fault nor an instruction's frame includes them. -/
theorem cycleLeavesKeysAndParameters : Obligations.CycleLeavesKeysAndParameters := by
  intro s t hstep
  obtain ⟨-, ⟨f, rfl⟩ | ⟨op, u, -, -, hc, rfl⟩⟩ := step_next hstep
  · exact ⟨fun _ => rfl, rfl⟩
  · exact ⟨hc.same_keys, hc.same_params⟩

/-- Settles O53: the tick leaves REDRAW alone. -/
theorem completedCycleKeepsRedraw : Obligations.CompletedCycleKeepsRedraw := by
  intro s t hstep ht hredraw
  obtain ⟨op, u, -, -, hc, rfl⟩ := step_completed hstep ht
  exact hc.redraw hredraw

/-! The caller's reads. -/

/-- Settles O55: an index up to 15 is one entry of the key map. -/
theorem setKeySetsOneKey : Obligations.SetKeySetsOneKey := by
  intro s k b
  by_cases hk : k < 16
  · rw [setKey_of_lt b hk]
    refine ⟨fun j => ?_, by simp, fun h => absurd hk (by omega)⟩
    simp [State.pressed, Vector.getElem_set, eq_comm]
  · rw [setKey_of_ge b (Nat.not_lt.mp hk)]
    refine ⟨fun j => ?_, by simp, fun _ => rfl⟩
    have hj := j.isLt
    rw [if_neg (by omega)]

/-- Settles O56: a cell number below 2048 is a column and a row. -/
theorem displayReads : Obligations.DisplayReads := by
  intro s
  refine ⟨fun x y h hx => ?_, rfl, by simp [State.clearRedraw]⟩
  have hcol : (y * 64 + x) % 64 = x := by omega
  have hrow : (y * 64 + x) / 64 = y := by omega
  simp only [State.readFb, Vector.getElem_ofFn, hcol, hrow]

end Sys2Proof.Machine
end
